-- ==== Sys2Proof/Word.lean ====
section
/-! DEFINITION. The three fixed widths of the block: a register word, a time value, a command frame. -/

namespace Sys2Proof

/-- One register of either bank: `WORD` bits, "fixed at 32 in this spec" (00_scope.md R7). -/
abbrev Word := BitVec 32

/-- A time value in milliseconds, `uint64` (40_clock_timer.md R80, R84). -/
abbrev Time := BitVec 64

/-- A command frame `F = CW :: D` (30_encoding.md R60). -/
abbrev Frame := BitVec 96

/-- A response data word (30_encoding.md R63). -/
abbrev Data := BitVec 64

end Sys2Proof
end

