-- ==== Sys2Proof/Config.lean ====
section
/-! DEFINITION. What an implementation fixes: the parameter record of 00_scope.md R7 with the spec's default
values, the symbolic register names of the two banks, and the values the spec leaves open. -/

namespace Sys2Proof

/-- The platform parameters of 00_scope.md R7 (`WORD` is the type `Word`). A model takes this record as an
argument; here it stands in the state and no step changes it (log 1). -/
structure Params where
  /-- `NPINS`: valid pins are `0 .. NPINS-1`. -/
  npins : Nat
  /-- `FSEL_BITS`: width of one function-select field. -/
  fselBits : Nat
  /-- `FSEL_PER_WORD`: function-select fields in one register. -/
  fselPerWord : Nat
  /-- `FSEL_INPUT`: the code for an input. -/
  fselInput : Word
  /-- `FSEL_OUTPUT`: the code for an output. -/
  fselOutput : Word
  /-- `LEVEL_PER_WORD`: pins in one set, clear or level register. -/
  levelPerWord : Nat
  /-- `NTIMER`: number of timer slots. -/
  ntimer : Nat
  /-- `NSPWM`: number of software PWM channels. -/
  nspwm : Nat
  /-- `NHPWM`: number of hardware PWM channels. -/
  nhpwm : Nat
  /-- `PWM_BASE_HZ`: the PWM base clock. -/
  pwmBaseHz : Nat
  /-- `PWM_DIV_MIN`. -/
  pwmDivMin : Nat
  /-- `PWM_DIV_MAX`, inclusive. -/
  pwmDivMax : Nat
  /-- `PWM_PERIOD_MAX`: largest value of a period register. -/
  pwmPeriodMax : Nat
  /-- `PWM_TOL_PPM`: the tolerance in parts per million. -/
  pwmTolPpm : Nat
  /-- `PWM_DIV_SHARED`: one divider register for all channels. -/
  pwmDivShared : Bool
  /-- `PWM_EN_BIT[c]`: channel `c`'s bit of `PWM.CTL`. -/
  pwmEnBit : List Nat
  /-- `PWM_NEEDS_ALT`: PWM output needs an alternate pin function. -/
  pwmNeedsAlt : Bool
  /-- `PWM_PIN[c]`: the pin that carries channel `c`. -/
  pwmPin : List Nat
  /-- `PWM_ALT[c]`: the function-select code that routes channel `c`. -/
  pwmAlt : List Word
  deriving DecidableEq, Repr

/-- `NFSEL = ceil(NPINS / FSEL_PER_WORD)` (00_scope.md R7). -/
def Params.nfsel (P : Params) : Nat := (P.npins + P.fselPerWord - 1) / P.fselPerWord

/-- `NLEV = ceil(NPINS / LEVEL_PER_WORD)` (00_scope.md R7). -/
def Params.nlev (P : Params) : Nat := (P.npins + P.levelPerWord - 1) / P.levelPerWord

/-- The spec's default values, column "default instance" of 00_scope.md R7 (log 17). -/
def Config.default : Params where
  npins := 54
  fselBits := 3
  fselPerWord := 10
  fselInput := 0b000#32
  fselOutput := 0b001#32
  levelPerWord := 32
  ntimer := 4
  nspwm := 4
  nhpwm := 2
  pwmBaseHz := 19200000
  pwmDivMin := 1
  pwmDivMax := 4095
  pwmPeriodMax := 4294967295
  pwmTolPpm := 10000
  pwmDivShared := false
  pwmEnBit := [0, 8]
  pwmNeedsAlt := true
  pwmPin := [18, 19]
  pwmAlt := [0b010#32, 0b010#32]

/-- The symbolic register names of 10_state.md R25: the address of every bank access. -/
inductive RegAddr where
  /-- `GPIO.FSEL[w]` -/
  | fsel (w : Nat)
  /-- `GPIO.SET[w]` -/
  | set (w : Nat)
  /-- `GPIO.CLR[w]` -/
  | clr (w : Nat)
  /-- `GPIO.LEV[w]` -/
  | lev (w : Nat)
  /-- `PWM.CTL` -/
  | ctl
  /-- `PWM.DIV[c]` -/
  | div (c : Nat)
  /-- `PWM.RNG[c]` -/
  | rng (c : Nat)
  /-- `PWM.DAT[c]` -/
  | dat (c : Nat)
  deriving DecidableEq, Repr

/-- The OPEN address parameters of 20_memory.md R50. "No rule of this spec reads them." -/
structure AddressMap where
  gpioBase : Nat
  pwmBase : Nat
  offFsel : Nat
  offSet : Nat
  offClr : Nat
  offLev : Nat
  offCtl : Nat
  offDiv : List Nat
  offRng : List Nat
  offDat : List Nat
  deriving DecidableEq, Repr, Inhabited

/-- The platform's address map: no value given (20_memory.md R50, 92_eei_decisions.md D16). -/
opaque Config.addressMap : AddressMap

/-- `draw` from `{0, 1}` for bit `i` of register `a` in the command whose draw number is `n` (00_scope.md R8;
10_state.md R18; 20_memory.md R41, R45, R46). A free value: nothing constrains it (log 5). -/
opaque Config.drawBit : (n : Nat) → (a : RegAddr) → (i : Nat) → Bool

/-- The 64-bit fields whose value after reset is unspecified (10_state.md R28). -/
inductive ResetField where
  /-- `T[i].interval` -/
  | interval (i : Nat)
  /-- `T[i].next_expiry` -/
  | nextExpiry (i : Nat)
  /-- `SP[k].on_ms` -/
  | onMs (k : Nat)
  /-- `SP[k].off_ms` -/
  | offMs (k : Nat)
  /-- `SP[k].tmr.interval` -/
  | chanInterval (k : Nat)
  /-- `SP[k].tmr.next_expiry` -/
  | chanNextExpiry (k : Nat)
  deriving DecidableEq, Repr

/-- The value a 64-bit field holds after the reset whose draw number is `n`: free (10_state.md R28; log 6). -/
opaque Config.resetTime : (n : Nat) → (f : ResetField) → Time

/-- `SP[k].pin` after the reset whose draw number is `n`: free (10_state.md R28; log 6). -/
opaque Config.resetPin : (n : Nat) → (k : Nat) → BitVec 8

/-- `SP[k].phase` after the reset whose draw number is `n`: free (10_state.md R28; log 6). -/
opaque Config.resetPhase : (n : Nat) → (k : Nat) → Bool

end Sys2Proof
end

