-- ==== Sys2Proof/Syntax.lean ====
section
/-! DEFINITION. The command set: one constructor for each of the 16 rows of the opcode map (30_encoding.md R65, R70). -/

namespace Sys2Proof

/-- The mode operand: INPUT (0) or OUTPUT (1) (30_encoding.md R62). -/
inductive Mode where
  | input
  | output
  deriving DecidableEq, Repr

/-- The level operand: LOW (0) or HIGH (1) (30_encoding.md R62). -/
inductive Level where
  | low
  | high
  deriving DecidableEq, Repr

/-- A command of the block (30_encoding.md R70). Each operand has the width its frame field has (R61, R62), so
every term has a frame; which index operands name an existing slot or channel is `Instr.WellFormed`. -/
inductive Instr where
  /-- `GPIO_INIT` (R100) -/
  | gpioInit
  /-- `GPIO_CLEANUP` (R101) -/
  | gpioCleanup
  /-- `PIN_MODE pin, mode` (R106) -/
  | pinMode (pin : BitVec 8) (mode : Mode)
  /-- `DIGITAL_WRITE pin, level` (R108) -/
  | digitalWrite (pin : BitVec 8) (level : Level)
  /-- `DIGITAL_READ pin` (R110) -/
  | digitalRead (pin : BitVec 8)
  /-- `MILLIS` (R83) -/
  | millis
  /-- `TIMER_SET t, interval_ms` (R85) -/
  | timerSet (t : BitVec 8) (interval : BitVec 64)
  /-- `TIMER_EXPIRED t` (R86) -/
  | timerExpired (t : BitVec 8)
  /-- `TIMER_TICK t` (R88) -/
  | timerTick (t : BitVec 8)
  /-- `SPWM_CFG s, pin, freq_hz, duty_q16` (R123) -/
  | spwmCfg (ch : BitVec 8) (pin : BitVec 8) (freq : BitVec 32) (duty : BitVec 17)
  /-- `SPWM_POLL s` (R125) -/
  | spwmPoll (ch : BitVec 8)
  /-- `HPWM_INIT` (R140) -/
  | hpwmInit
  /-- `HPWM_CLEANUP` (R141) -/
  | hpwmCleanup
  /-- `HPWM_SET c, freq_hz, duty_q16` (R143) -/
  | hpwmSet (ch : BitVec 8) (freq : BitVec 32) (duty : BitVec 17)
  /-- `HPWM_ENABLE c` (R145) -/
  | hpwmEnable (ch : BitVec 8)
  /-- `HPWM_DISABLE c` (R146) -/
  | hpwmDisable (ch : BitVec 8)
  deriving DecidableEq, Repr

end Sys2Proof
end

