-- ==== Sys2Proof/Machine/State.lean ====
section
/-! DEFINITION. The state of the block (10_state.md R10), the inputs and the response around it, the reasons a step
can stop, and the state after reset (10_state.md R28). -/

namespace Sys2Proof.Machine

/-! ### The block -/

/-- A timer, `{ interval, next_expiry }` (10_state.md R13): a slot `T[i]` or a channel's private `tmr`. -/
structure Timer where
  /-- `interval`, a length of time in milliseconds. -/
  interval : Time
  /-- `next_expiry`, a point on the timeline of `now_ms`. -/
  nextExpiry : Time
  deriving DecidableEq, Repr

/-- A software PWM channel `SP[s]` (10_state.md R22). -/
structure Channel where
  /-- `cfg`: the channel has been configured since reset. -/
  cfg : Bool
  /-- `pin`: the pin it toggles. -/
  pin : BitVec 8
  /-- `on_ms`. -/
  onMs : Time
  /-- `off_ms`. -/
  offMs : Time
  /-- `phase`: `true` is the HIGH-phase, `false` the LOW-phase. -/
  phase : Bool
  /-- `tmr`, the private timer. -/
  tmr : Timer
  deriving DecidableEq, Repr

/-- The state of the block: "exactly" what 10_state.md R10 lists. -/
structure Block where
  /-- `gpio_mapped` (R14). -/
  gpioMapped : Bool
  /-- `pwm_mapped` (R14). -/
  pwmMapped : Bool
  /-- `halted` (R14). -/
  halted : Bool
  /-- The timer file `T[0 .. NTIMER-1]` (R12). -/
  timers : List Timer
  /-- The function-select fields `FSEL[0 .. NPINS-1]`, each a code below `2^FSEL_BITS` (R15). -/
  fsel : List Word
  /-- The output latches `OUT[0 .. NPINS-1]` (R17). -/
  out : List Bool
  /-- `PWM.CTL` (R20). -/
  pwmCtl : Word
  /-- `PWM.DIV[c]`; one entry when `PWM_DIV_SHARED` (R21). -/
  pwmDiv : List Word
  /-- `PWM.RNG[c]` (R21). -/
  pwmRng : List Word
  /-- `PWM.DAT[c]` (R21). -/
  pwmDat : List Word
  /-- The software PWM channel file `SP[0 .. NSPWM-1]` (R22). -/
  spwm : List Channel
  deriving DecidableEq, Repr

/-! ### What stands around the block -/

/-- The inputs the environment supplies (00_scope.md R6; 10_state.md R23: never state of the block). -/
structure Env where
  /-- `now_ms` (40_clock_timer.md R80). -/
  nowMs : Time
  /-- `clock_ok` (40_clock_timer.md R81). -/
  clockOk : Bool
  /-- `pad_in[p]` on wire `p`; `NPINS <= 255`, so 256 wires hold them (log 18). -/
  padIn : BitVec 256
  /-- `map_grant_gpio`. -/
  mapGrantGpio : Bool
  /-- `map_grant_pwm`. -/
  mapGrantPwm : Bool
  deriving DecidableEq, Repr

/-- One move of an agent outside the block (00_scope.md R6; log 2). -/
inductive Event where
  /-- The host presents a frame on the port `cmd`. -/
  | command (F : Frame)
  /-- The environment changes its inputs. -/
  | environment (e : Env)
  /-- The environment asserts `reset` (70_reset_and_hazards.md R190). -/
  | reset
  deriving DecidableEq, Repr

/-- The response `rsp` to a command (30_encoding.md R63). -/
structure Response where
  status : BitVec 8
  data : Data
  deriving DecidableEq, Repr

/-- The error kinds of 60_exceptions.md R160. They are responses of the block, not faults of the model. -/
inductive ErrorKind where
  | hardwareAccess
  | notInitialized
  | invalidPin
  | invalidPinState
  | invalidConfiguration
  | illegalCommand
  deriving DecidableEq, Repr

/-! ### How a step can stop -/

/-- Why the machine stops with a fault. -/
inductive Fault where
  /-- An access names a register word, a file entry or a parameter entry that the platform does not have
  (20_memory.md R46). Raised by the bank accesses and by the file reads in Machine/Ops.lean. Safe: the model stops.
  No command of a state that meets `State.Inv` raises it. -/
  | noSuchRegister
  deriving DecidableEq, Repr

/-- Why a step is refused. -/
inductive Refusal where
  /-- An instruction that has no meaning yet. Raised by no arm: every instruction has its meaning. Safe. -/
  | notModelled (mnemonic : String)
  /-- An access to a bank that is not mapped: "a bug in the model and it should refuse" (20_memory.md R40). Raised by
  the bank accesses in Machine/Ops.lean. Safe: the model stops. No command raises it. -/
  | unmappedBank
  deriving DecidableEq, Repr

/-! ### The state of a step -/

/-- Everything a step reads and writes. `block` is the state the spec gives the machine; the other fields are the
model's own. -/
structure State where
  /-- The parameter record (00_scope.md R7); no step changes it (log 1). -/
  params : Params
  /-- The state of the block (10_state.md R10). -/
  block : Block
  /-- The inputs as they stand now (log 2). -/
  env : Env
  /-- What the host and the environment do next, in order (log 2). -/
  script : List Event
  /-- The number of the next draw: one for each answered command and each reset (log 5). -/
  draws : Nat
  /-- The response of the last step; `none` when it gave none (log 8). -/
  rsp : Option Response
  deriving DecidableEq, Repr

/-- A step's outcome. -/
abbrev Result := Host.Outcome State Fault Refusal

/-! ### Updates of the block, one for each piece of state -/

def State.withBlock (s : State) (b : Block) : State := { s with block := b }
def State.withGpioMapped (s : State) (v : Bool) : State := { s with block := { s.block with gpioMapped := v } }
def State.withPwmMapped (s : State) (v : Bool) : State := { s with block := { s.block with pwmMapped := v } }
def State.withHalted (s : State) (v : Bool) : State := { s with block := { s.block with halted := v } }
def State.withTimers (s : State) (v : List Timer) : State := { s with block := { s.block with timers := v } }
def State.withFsel (s : State) (v : List Word) : State := { s with block := { s.block with fsel := v } }
def State.withOut (s : State) (v : List Bool) : State := { s with block := { s.block with out := v } }
def State.withPwmCtl (s : State) (v : Word) : State := { s with block := { s.block with pwmCtl := v } }
def State.withPwmDiv (s : State) (v : List Word) : State := { s with block := { s.block with pwmDiv := v } }
def State.withPwmRng (s : State) (v : List Word) : State := { s with block := { s.block with pwmRng := v } }
def State.withPwmDat (s : State) (v : List Word) : State := { s with block := { s.block with pwmDat := v } }
def State.withSpwm (s : State) (v : List Channel) : State := { s with block := { s.block with spwm := v } }
def State.withEnv (s : State) (e : Env) : State := { s with env := e }
def State.withScript (s : State) (l : List Event) : State := { s with script := l }
def State.withRsp (s : State) (r : Option Response) : State := { s with rsp := r }

/-- The next draw has a new number. -/
def State.countDraw (s : State) : State := { s with draws := s.draws + 1 }

/-! ### Reset -/

/-- A timer every bit of which is 1. -/
def Timer.ones : Timer := ⟨BitVec.allOnes 64, BitVec.allOnes 64⟩

/-- A channel that is not configured, every other bit of which is 1. -/
def Channel.unconfigured : Channel :=
  ⟨false, BitVec.allOnes 8, BitVec.allOnes 64, BitVec.allOnes 64, true, Timer.ones⟩

/-- The block after reset, for the default parameters. The flags and the `cfg` bits are 0 (10_state.md R28). Every other
bit is unspecified there, "must not" be taken to be zero, and is 1 here (DESIGN CHOICE, unsafe, log 3). -/
def Block.reset : Block where
  gpioMapped := false
  pwmMapped := false
  halted := false
  timers := List.replicate 4 Timer.ones
  fsel := List.replicate 54 0b111#32
  out := List.replicate 54 true
  pwmCtl := BitVec.allOnes 32
  pwmDiv := List.replicate 2 (BitVec.allOnes 32)
  pwmRng := List.replicate 2 (BitVec.allOnes 32)
  pwmDat := List.replicate 2 (BitVec.allOnes 32)
  spwm := List.replicate 4 Channel.unconfigured

/-- The inputs as they stand at launch, which the spec leaves free (70_reset_and_hazards.md R191): a clock that is
available and reads 1000, both grants given, every pad high (DESIGN CHOICE, unsafe, log 4). -/
def Env.atLaunch : Env where
  nowMs := 1000#64
  clockOk := true
  padIn := BitVec.allOnes 256
  mapGrantGpio := true
  mapGrantPwm := true

/-- The machine right after reset (10_state.md R28; 70_reset_and_hazards.md R190): nothing placed on the command port. -/
def State.reset : State where
  params := Config.default
  block := Block.reset
  env := Env.atLaunch
  script := []
  draws := 0
  rsp := none

end Sys2Proof.Machine
end

