-- ==== Sys2Proof/Machine/Operands.lean ====
section
/-! DEFINITION. The arithmetic of operands: the lines of a register word, where a pin's field and bit lie
(41_gpio.md R104), time arithmetic (40_clock_timer.md R84), rounding (00_scope.md R8), and result data (30_encoding.md R63). -/

namespace Sys2Proof.Machine

/-! ### Register words on the bus -/

/-- The value one bank access moves, line by line: line `i` is bit `i` of the `WORD`-bit value, lines 32 and above do
not exist and are never looked at. Held as lines so that a drawn bit stays apart from its neighbours. -/
abbrev BusWord := Nat → Bool

/-- The bits of a register word. -/
def BusWord.ofWord (v : Word) : BusWord := fun i => v.getLsbD i

/-- Lines `off .. off+n-1` as an unsigned number. -/
def BusWord.toNat (v : BusWord) : (off n : Nat) → Nat
  | _, 0 => 0
  | off, n + 1 => (v off).toNat + 2 * BusWord.toNat v (off + 1) n

/-- The slice `v[off+n-1 : off]` (00_scope.md R8). -/
def BusWord.field (v : BusWord) (off n : Nat) : Word := BitVec.ofNat 32 (v.toNat off n)

/-- All 32 lines as a word. -/
def BusWord.word (v : BusWord) : Word := v.field 0 32

/-- `field_mask(w, o)`: `w` one bits from bit `o` (00_scope.md R8). -/
def BusWord.fieldMask (w o : Nat) : BusWord := fun i => decide (o ≤ i ∧ i < o + w)

/-- `code * 2^o`. -/
def BusWord.shifted (code : Word) (o : Nat) : BusWord := fun i => decide (o ≤ i) && code.getLsbD (i - o)

/-- `2^o`: the word with a single 1 bit. -/
def BusWord.bit (o : Nat) : BusWord := fun i => decide (i = o)

/-- `a AND NOT b`. -/
def BusWord.andNot (a b : BusWord) : BusWord := fun i => a i && !b i

/-- `a OR b`. -/
def BusWord.or (a b : BusWord) : BusWord := fun i => a i || b i

/-! ### Register word and bit offset of a pin (41_gpio.md R104) -/

/-- `fw(p)`: the function-select register of pin `p`. -/
def fselWord (P : Params) (p : Nat) : Nat := p / P.fselPerWord

/-- `fo(p)`: the bit offset of its field. -/
def fselOffset (P : Params) (p : Nat) : Nat := p % P.fselPerWord * P.fselBits

/-- `lw(p)`: the set, clear and level register of pin `p`. -/
def levelWord (P : Params) (p : Nat) : Nat := p / P.levelPerWord

/-- `lo(p)`: the bit offset of its bit. -/
def levelOffset (P : Params) (p : Nat) : Nat := p % P.levelPerWord

/-- The pin whose field holds bit `i` of `GPIO.FSEL[w]`, and the bit of the field, if `i` lies in a field position
(20_memory.md R41). -/
def fselOwner (P : Params) (w i : Nat) : Option (Nat × Nat) :=
  if i < P.fselPerWord * P.fselBits then some (w * P.fselPerWord + i / P.fselBits, i % P.fselBits) else none

/-- The pin whose bit is bit `i` of a set, clear or level register, if `i` is a pin position (20_memory.md R43 to R45). -/
def levelOwner (P : Params) (w i : Nat) : Option Nat :=
  if i < P.levelPerWord then some (w * P.levelPerWord + i) else none

/-- The register that `PWM.DIV[c]` names: `PWM.DIV[0]` for every `c` when `PWM_DIV_SHARED` (10_state.md R21). -/
def divIndex (P : Params) (c : Nat) : Nat := if P.pwmDivShared then 0 else c

/-! ### Time (40_clock_timer.md R84) -/

/-- `add64(a, b) = (a + b) mod 2^64`. -/
def add64 (a b : Time) : Time := a + b

/-- `sub64(a, b) = (a - b) mod 2^64`. -/
def sub64 (a b : Time) : Time := a - b

/-- `reached(now, t) = (sub64(now, t) < 2^63)`. -/
def reached (now t : Time) : Bool := decide ((sub64 now t).toNat < 2 ^ 63)

/-! ### Rounding -/

/-- `round_half_up(n, d) = (2*n + d) div (2*d)` (00_scope.md R8). -/
def roundHalfUp (n d : Nat) : Nat := (2 * n + d) / (2 * d)

/-- `|a - b|` on naturals. -/
def absDiff (a b : Nat) : Nat := (a - b) + (b - a)

/-! ### Result data (30_encoding.md R63) -/

/-- A one-bit result, zero-extended. -/
def bitData (b : Bool) : Data := if b then 1#64 else 0#64

/-- The result of `SPWM_POLL`: `data[0]` the phase, `data[1]` whether it changed (42_soft_pwm.md R125). -/
def pollData (phase changed : Bool) : Data := bitData phase + (if changed then 2#64 else 0#64)

/-- The function-select code a mode operand stands for (41_gpio.md R106). -/
def modeCode (P : Params) (m : Mode) : Word :=
  match m with
  | .output => P.fselOutput
  | .input => P.fselInput

end Sys2Proof.Machine
end

