-- ==== Sys2Proof/Machine/Flags.lean ====
section
/-! DEFINITION. The status codes (60_exceptions.md R160), how a command's body ends early, and the flag checks. -/

namespace Sys2Proof.Machine

/-- `code(E)` (60_exceptions.md R160). -/
def ErrorKind.code : ErrorKind → BitVec 8
  | .hardwareAccess => 1#8
  | .notInitialized => 2#8
  | .invalidPin => 3#8
  | .invalidPinState => 4#8
  | .invalidConfiguration => 5#8
  | .illegalCommand => 6#8

/-- How a command's body ends before its last line. -/
inductive Stop where
  /-- `raise E` (60_exceptions.md R166). -/
  | raise (e : ErrorKind)
  /-- `Halt` (60_exceptions.md R169). -/
  | halt
  /-- A fault of the model. -/
  | fault (f : Fault)
  /-- A refusal of the model. -/
  | refuse (r : Refusal)
  deriving DecidableEq, Repr

/-- What a part of a command answers: a value, or an early end. -/
abbrev Act (α : Type) := Except Stop α

/-- `if not ok then raise E`. -/
def require (ok : Bool) (e : ErrorKind) : Act Unit := if ok then .ok () else .error (.raise e)

/-- An entry that a well-shaped state has. -/
def present {α : Type} : Option α → Act α
  | some x => .ok x
  | none => .error (.fault .noSuchRegister)

/-- The index check of 30_encoding.md R67, made before every other check of a command. -/
def requireIndex (i : BitVec 8) (count : Nat) : Act Unit := require (decide (i.toNat < count)) .illegalCommand

/-- `if gpio_mapped = 0 then raise NotInitializedError` (41_gpio.md R102). -/
def requireGpio (s : State) : Act Unit := require s.block.gpioMapped .notInitialized

/-- `if pwm_mapped = 0 then raise NotInitializedError` (43_hw_pwm.md R143). -/
def requirePwm (s : State) : Act Unit := require s.block.pwmMapped .notInitialized

/-- `if pin >= NPINS then raise InvalidPinError` (41_gpio.md R103). -/
def requirePin (s : State) (pin : BitVec 8) : Act Unit := require (decide (pin.toNat < s.params.npins)) .invalidPin

/-- The one sample of the clock, or `Halt` when there is no clock (40_clock_timer.md R81, R82). -/
def sampleClock (s : State) : Act Time := if s.env.clockOk then .ok s.env.nowMs else .error .halt

/-- `EN[c]`: bit `PWM_EN_BIT[c]` of `PWM.CTL` (10_state.md R20). -/
def enabled (s : State) (c : Nat) : Bool :=
  match s.params.pwmEnBit[c]? with
  | some b => s.block.pwmCtl.getLsbD b
  | none => false

end Sys2Proof.Machine
end

