-- ==== Sys2Proof/Machine/Ops.lean ====
section
/-! DEFINITION. The two access primitives of 20_memory.md R40 and what each register does (R41 to R47), the shared
procedures `SetFsel` and `DigitalWrite` (41_gpio.md R105, R107), and the shell around every command: how it answers,
how it raises an error and how it halts (60_exceptions.md R166, R169). -/

namespace Sys2Proof.Machine

/-! ### Bank accesses -/

/-- The bank of the register is mapped (20_memory.md R40). -/
def bankMapped (s : State) : RegAddr → Bool
  | .fsel _ | .set _ | .clr _ | .lev _ => s.block.gpioMapped
  | .ctl | .div _ | .rng _ | .dat _ => s.block.pwmMapped

/-- The platform has the register (10_state.md R25; 20_memory.md R46). -/
def hasRegister (P : Params) : RegAddr → Bool
  | .fsel w => decide (w < P.nfsel)
  | .set w | .clr w | .lev w => decide (w < P.nlev)
  | .ctl => true
  | .div c | .rng c | .dat c => decide (c < P.nhpwm)

/-- The gate of every access. -/
def access (s : State) (a : RegAddr) : Act Unit :=
  if bankMapped s a then
    if hasRegister s.params a then .ok () else .error (.fault .noSuchRegister)
  else .error (.refuse .unmappedBank)

/-- `draw` for bit `i` of register `a` in this command (00_scope.md R8). -/
def draw (s : State) (a : RegAddr) (i : Nat) : Bool := Config.drawBit s.draws a i

/-- `lev(p)`, the level of pin `p` (10_state.md R18); `d` is the draw that stands for it in any other function. -/
def pinLevel (s : State) (p : Nat) (d : Bool) : Bool :=
  match s.block.fsel[p]?, s.block.out[p]? with
  | some f, some o =>
    if f = s.params.fselOutput then o else if f = s.params.fselInput then s.env.padIn.getLsbD p else d
  | _, _ => d

/-- Bit `i` of an entry of a register file; a draw where there is no entry. -/
def fileBit (s : State) (a : RegAddr) (file : List Word) (c i : Nat) : Bool :=
  match file[c]? with
  | some v => v.getLsbD i
  | none => draw s a i

/-- The lines a read drives (20_memory.md R41, R45, R46, R47). -/
def readLines (s : State) (a : RegAddr) : BusWord :=
  match a with
  | .fsel w => fun i =>
    match fselOwner s.params w i with
    | some (p, j) => fileBit s a s.block.fsel p j
    | none => draw s a i
  | .lev w => fun i =>
    match levelOwner s.params w i with
    | some p => pinLevel s p (draw s a i)
    | none => draw s a i
  | .set _ => fun i => draw s a i
  | .clr _ => fun i => draw s a i
  | .ctl => BusWord.ofWord s.block.pwmCtl
  | .div c => fileBit s a s.block.pwmDiv (divIndex s.params c)
  | .rng c => fileBit s a s.block.pwmRng c
  | .dat c => fileBit s a s.block.pwmDat c

/-- `MemRead(addr, 4)`. "The read changes no state." -/
def memRead (s : State) (a : RegAddr) : Act BusWord := do
  access s a
  return readLines s a

/-- The latches after a word is written to `GPIO.SET[w]` or `GPIO.CLR[w]`: the level `l` where the written bit is 1 and
the pin is an output, unchanged elsewhere (20_memory.md R43, R44). -/
def latches (s : State) (w : Nat) (v : BusWord) (l : Bool) : List Bool :=
  s.block.out.mapIdx fun p o =>
    if levelWord s.params p = w ∧ v (levelOffset s.params p) = true ∧ s.block.fsel[p]? = some s.params.fselOutput
    then l else o

/-- The state after a write (20_memory.md R42, R43, R44, R46, R47). -/
def writeLines (s : State) (a : RegAddr) (v : BusWord) : State :=
  match a with
  | .fsel w =>
    s.withFsel (s.block.fsel.mapIdx fun p f =>
      if fselWord s.params p = w then v.field (fselOffset s.params p) s.params.fselBits else f)
  | .set w => s.withOut (latches s w v true)
  | .clr w => s.withOut (latches s w v false)
  | .lev _ => s
  | .ctl => s.withPwmCtl v.word
  | .div c => s.withPwmDiv (s.block.pwmDiv.set (divIndex s.params c) v.word)
  | .rng c => s.withPwmRng (s.block.pwmRng.set c v.word)
  | .dat c => s.withPwmDat (s.block.pwmDat.set c v.word)

/-- `MemWrite(addr, 4, v)`. -/
def memWrite (s : State) (a : RegAddr) (v : BusWord) : Act State := do
  access s a
  return writeLines s a v

/-! ### Shared procedures -/

/-- `SetFsel(p, code)`, the read-modify-write of a function-select word (41_gpio.md R105). -/
def setFsel (s : State) (p : Nat) (code : Word) : Act State := do
  let o := fselOffset s.params p
  let old ← memRead s (.fsel (fselWord s.params p))
  memWrite s (.fsel (fselWord s.params p))
    ((old.andNot (BusWord.fieldMask s.params.fselBits o)).or (BusWord.shifted code o))

/-- `DigitalWrite(p, level)` (41_gpio.md R107). -/
def digitalWriteTo (s : State) (p : Nat) (level : Bool) : Act State := do
  let v ← memRead s (.fsel (fselWord s.params p))
  let f := v.field (fselOffset s.params p) s.params.fselBits
  require (decide (f = s.params.fselOutput)) .invalidPinState
  memWrite s (if level then .set (levelWord s.params p) else .clr (levelWord s.params p))
    (BusWord.bit (levelOffset s.params p))

/-! ### The shell of a command -/

/-- The block gives response `r`; the next command's draws are new ones. -/
def State.respond (s : State) (r : Response) : State := (s.withRsp (some r)).countDraw

/-- `return v` (00_scope.md R8; 30_encoding.md R63). -/
def State.answer (s : State) (d : Data) : State := s.respond ⟨0#8, d⟩

/-- `raise E`, what stands for taking an exception here: the status goes to the host, `data = 0`, and no state of the
block has changed (60_exceptions.md R166). There is nothing to return from (R171). -/
def State.raise (s : State) (e : ErrorKind) : State := s.respond ⟨e.code, 0#64⟩

/-- `Halt`: `halted <- 1`, no other state of the block changes, no response (60_exceptions.md R169). -/
def State.halt (s : State) : State := ((s.withHalted true).withRsp none).countDraw

/-- Nothing happens and no response is given: an idle port, or a frame put to a halted block (10_state.md R14). -/
def State.silent (s : State) : State := s.withRsp none

/-- How a command ends: with its data and the state it leaves, or early, from the state it began in. -/
def conclude (s : State) : Act (Data × State) → Result
  | .ok (d, t) => .next (t.answer d)
  | .error (.raise e) => .next (s.raise e)
  | .error .halt => .next s.halt
  | .error (.fault f) => .fault f
  | .error (.refuse r) => .refused r

/-- A command: "a halted block answers no command" (10_state.md R14), any other block runs its body to the end as one
indivisible step (00_scope.md R5). -/
def command (s : State) (body : Act (Data × State)) : Result :=
  if s.block.halted then .next s.silent else conclude s body

end Sys2Proof.Machine
end

