-- ==== Sys2Proof/Machine/Clock.lean ====
section
/-! DEFINITION. The clock and timer unit (40_clock_timer.md): MILLIS, TIMER_SET, TIMER_EXPIRED, TIMER_TICK. -/

namespace Sys2Proof.Machine

/-- Slot `T[t]`. -/
def timerAt (s : State) (t : BitVec 8) : Act Timer := present s.block.timers[t.toNat]?

/-- `T[t] <- v`. -/
def setTimer (s : State) (t : BitVec 8) (v : Timer) : State := s.withTimers (s.block.timers.set t.toNat v)

/-- `MILLIS` (40_clock_timer.md R83). -/
def execMillis (s : State) : Result := command s do
  let now ← sampleClock s
  return (now, s)

/-- `TIMER_SET t, interval_ms` (40_clock_timer.md R85, R87). -/
def execTimerSet (t : BitVec 8) (interval : BitVec 64) (s : State) : Result := command s do
  requireIndex t s.params.ntimer
  let now ← sampleClock s
  let _ ← timerAt s t
  return (0#64, setTimer s t ⟨interval, add64 now interval⟩)

/-- `TIMER_EXPIRED t` (40_clock_timer.md R86). -/
def execTimerExpired (t : BitVec 8) (s : State) : Result := command s do
  requireIndex t s.params.ntimer
  let now ← sampleClock s
  let slot ← timerAt s t
  return (bitData (reached now slot.nextExpiry), s)

/-- `TIMER_TICK t` (40_clock_timer.md R88, R89): at most one re-arm, one interval after the missed deadline. -/
def execTimerTick (t : BitVec 8) (s : State) : Result := command s do
  requireIndex t s.params.ntimer
  let now ← sampleClock s
  let slot ← timerAt s t
  if reached now slot.nextExpiry then
    return (1#64, setTimer s t ⟨slot.interval, add64 slot.nextExpiry slot.interval⟩)
  else
    return (0#64, s)

end Sys2Proof.Machine
end

