-- ==== Sys2Proof/Decode.lean ====
section
/-! DEFINITION. The frame's fields, the opcode map, the decoder (total: a frame that matches no row is `none`, which
the machine answers with `IllegalCommand`, 30_encoding.md R66) and the encoder. -/

namespace Sys2Proof

/-! ### Fields (30_encoding.md R60, R62) -/

/-- `op = F[95:88]`. -/
def Frame.op (F : Frame) : BitVec 8 := F.extractLsb' 88 8

/-- `a = F[87:80]`: a pin, a timer slot or a channel. -/
def Frame.a (F : Frame) : BitVec 8 := F.extractLsb' 80 8

/-- `b = F[79:72]`: the pin of `SPWM_CFG`. -/
def Frame.b (F : Frame) : BitVec 8 := F.extractLsb' 72 8

/-- `c = F[71:64]`. -/
def Frame.c (F : Frame) : BitVec 8 := F.extractLsb' 64 8

/-- `D = F[63:0]`: the 64-bit operand. -/
def Frame.data (F : Frame) : BitVec 64 := F.extractLsb' 0 64

/-- `freq_hz = D[31:0]`. -/
def Frame.freq (F : Frame) : BitVec 32 := F.data.extractLsb' 0 32

/-- `duty_q16 = D[48:32]`. -/
def Frame.duty (F : Frame) : BitVec 17 := F.data.extractLsb' 32 17

/-- The mode a bit stands for: 0 is INPUT, 1 is OUTPUT. -/
def Mode.ofBit (b : Bool) : Mode := if b then .output else .input

/-- The bit that stands for a mode. -/
def Mode.toBit : Mode → Bool
  | .input => false
  | .output => true

/-- The level a bit stands for: 0 is LOW, 1 is HIGH. -/
def Level.ofBit (b : Bool) : Level := if b then .high else .low

/-- The bit that stands for a level. -/
def Level.toBit : Level → Bool
  | .low => false
  | .high => true

/-- `mode = c[0]`. -/
def Frame.mode (F : Frame) : Mode := Mode.ofBit (F.c.getLsbD 0)

/-- `level = c[0]`. -/
def Frame.level (F : Frame) : Level := Level.ofBit (F.c.getLsbD 0)

/-! ### The opcode map (30_encoding.md R65) -/

/-- One row of the opcode map. "A frame `F` is the command of a row when `F AND mask = match`." -/
structure OpcodeRow where
  /-- The column "match". -/
  pattern : Frame
  /-- The column "mask". -/
  mask : Frame
  /-- The command of a frame of this row, its operands read from the fields of the row's format (R61). -/
  command : Frame → Instr

/-- `F` is a frame of row `r`. -/
def OpcodeRow.covers (r : OpcodeRow) (F : Frame) : Bool := F &&& r.mask == r.pattern

/-- Rows 0x01 to 0x05: the GPIO unit. -/
def gpioRows : List OpcodeRow :=
  [ ⟨0x010000000000000000000000#96, 0xFFFFFFFFFFFFFFFFFFFFFFFF#96, fun _ => .gpioInit⟩,
    ⟨0x020000000000000000000000#96, 0xFFFFFFFFFFFFFFFFFFFFFFFF#96, fun _ => .gpioCleanup⟩,
    ⟨0x030000000000000000000000#96, 0xFF00FFFEFFFFFFFFFFFFFFFF#96, fun F => .pinMode F.a F.mode⟩,
    ⟨0x040000000000000000000000#96, 0xFF00FFFEFFFFFFFFFFFFFFFF#96, fun F => .digitalWrite F.a F.level⟩,
    ⟨0x050000000000000000000000#96, 0xFF00FFFFFFFFFFFFFFFFFFFF#96, fun F => .digitalRead F.a⟩ ]

/-- Rows 0x10 to 0x13: the clock and timer unit. -/
def clockRows : List OpcodeRow :=
  [ ⟨0x100000000000000000000000#96, 0xFFFFFFFFFFFFFFFFFFFFFFFF#96, fun _ => .millis⟩,
    ⟨0x110000000000000000000000#96, 0xFF00FFFF0000000000000000#96, fun F => .timerSet F.a F.data⟩,
    ⟨0x120000000000000000000000#96, 0xFF00FFFFFFFFFFFFFFFFFFFF#96, fun F => .timerExpired F.a⟩,
    ⟨0x130000000000000000000000#96, 0xFF00FFFFFFFFFFFFFFFFFFFF#96, fun F => .timerTick F.a⟩ ]

/-- Rows 0x20 and 0x21: the software PWM unit. -/
def spwmRows : List OpcodeRow :=
  [ ⟨0x200000000000000000000000#96, 0xFF0000FFFFFE000000000000#96, fun F => .spwmCfg F.a F.b F.freq F.duty⟩,
    ⟨0x210000000000000000000000#96, 0xFF00FFFFFFFFFFFFFFFFFFFF#96, fun F => .spwmPoll F.a⟩ ]

/-- Rows 0x30 to 0x34: the hardware PWM unit. -/
def hpwmRows : List OpcodeRow :=
  [ ⟨0x300000000000000000000000#96, 0xFFFFFFFFFFFFFFFFFFFFFFFF#96, fun _ => .hpwmInit⟩,
    ⟨0x310000000000000000000000#96, 0xFFFFFFFFFFFFFFFFFFFFFFFF#96, fun _ => .hpwmCleanup⟩,
    ⟨0x320000000000000000000000#96, 0xFF00FFFFFFFE000000000000#96, fun F => .hpwmSet F.a F.freq F.duty⟩,
    ⟨0x330000000000000000000000#96, 0xFF00FFFFFFFFFFFFFFFFFFFF#96, fun F => .hpwmEnable F.a⟩,
    ⟨0x340000000000000000000000#96, 0xFF00FFFFFFFFFFFFFFFFFFFF#96, fun F => .hpwmDisable F.a⟩ ]

/-- The opcode map of 30_encoding.md R65. -/
def opcodeTable : List OpcodeRow := gpioRows ++ clockRows ++ spwmRows ++ hpwmRows

/-- The command a frame encodes; `none` for a frame that matches no row (30_encoding.md R66). The check of the
index operand against the platform's file sizes (R67) is `requireIndex`, made first by each command (log 15). -/
def decode (F : Frame) : Option Instr :=
  (opcodeTable.find? fun r => r.covers F).map fun r => r.command F

/-! ### The encoder (30_encoding.md R60 to R62) -/

/-- The frame with the given fields. -/
def Frame.ofFields (op a b c : BitVec 8) (d : BitVec 64) : Frame := op ++ a ++ b ++ c ++ d

/-- The data field of formats IFD and IPFD: `D[31:0] = freq_hz`, `D[48:32] = duty_q16`, `D[63:49] = 0`. -/
def Frame.freqDuty (freq : BitVec 32) (duty : BitVec 17) : BitVec 64 := 0#15 ++ duty ++ freq

/-- The field `c` of format PV: `c[0]` is the bit, `c[7:1] = 0`. -/
def Frame.bitField (b : Bool) : BitVec 8 := if b then 1#8 else 0#8

/-- The frame of a command. -/
def encode : Instr → Frame
  | .gpioInit => Frame.ofFields 0x01#8 0 0 0 0
  | .gpioCleanup => Frame.ofFields 0x02#8 0 0 0 0
  | .pinMode pin mode => Frame.ofFields 0x03#8 pin 0 (Frame.bitField mode.toBit) 0
  | .digitalWrite pin level => Frame.ofFields 0x04#8 pin 0 (Frame.bitField level.toBit) 0
  | .digitalRead pin => Frame.ofFields 0x05#8 pin 0 0 0
  | .millis => Frame.ofFields 0x10#8 0 0 0 0
  | .timerSet t interval => Frame.ofFields 0x11#8 t 0 0 interval
  | .timerExpired t => Frame.ofFields 0x12#8 t 0 0 0
  | .timerTick t => Frame.ofFields 0x13#8 t 0 0 0
  | .spwmCfg ch pin freq duty => Frame.ofFields 0x20#8 ch pin 0 (Frame.freqDuty freq duty)
  | .spwmPoll ch => Frame.ofFields 0x21#8 ch 0 0 0
  | .hpwmInit => Frame.ofFields 0x30#8 0 0 0 0
  | .hpwmCleanup => Frame.ofFields 0x31#8 0 0 0 0
  | .hpwmSet ch freq duty => Frame.ofFields 0x32#8 ch 0 0 (Frame.freqDuty freq duty)
  | .hpwmEnable ch => Frame.ofFields 0x33#8 ch 0 0 0
  | .hpwmDisable ch => Frame.ofFields 0x34#8 ch 0 0 0

/-! ### The opcode table's own numbering -/

/-- The command read from the `nbits` bits `w` of a frame, bit 0 the least significant: a frame is one word of 96
bits, the bits above `nbits` are 0, and there is no longer form (30_encoding.md R60, R69; log 16). -/
def decodeTableWord (nbits w : Nat) : Option Instr :=
  if nbits ≤ 96 then decode (BitVec.ofNat 96 (w % 2 ^ nbits)) else none

end Sys2Proof
end

