-- ==== Sys2Proof/Machine/Gpio.lean ====
section
/-! DEFINITION. The GPIO unit (41_gpio.md): GPIO_INIT, GPIO_CLEANUP, PIN_MODE, DIGITAL_WRITE, DIGITAL_READ. -/

namespace Sys2Proof.Machine

/-- `GPIO_INIT` (41_gpio.md R100). -/
def execGpioInit (s : State) : Result := command s do
  if s.block.gpioMapped then
    return (0#64, s)
  else
    require s.env.mapGrantGpio .hardwareAccess
    return (0#64, s.withGpioMapped true)

/-- `GPIO_CLEANUP` (41_gpio.md R101). -/
def execGpioCleanup (s : State) : Result := command s do
  return (0#64, s.withGpioMapped false)

/-- `PIN_MODE pin, mode` (41_gpio.md R106). -/
def execPinMode (pin : BitVec 8) (mode : Mode) (s : State) : Result := command s do
  requireGpio s
  requirePin s pin
  let t ← setFsel s pin.toNat (modeCode s.params mode)
  return (0#64, t)

/-- `DIGITAL_WRITE pin, level` (41_gpio.md R108). -/
def execDigitalWrite (pin : BitVec 8) (level : Level) (s : State) : Result := command s do
  requireGpio s
  requirePin s pin
  let t ← digitalWriteTo s pin.toNat level.toBit
  return (0#64, t)

/-- `DIGITAL_READ pin` (41_gpio.md R110). -/
def execDigitalRead (pin : BitVec 8) (s : State) : Result := command s do
  requireGpio s
  requirePin s pin
  let v ← memRead s (.lev (levelWord s.params pin.toNat))
  return (bitData (v (levelOffset s.params pin.toNat)), s)

end Sys2Proof.Machine
end

