-- ==== Sys2Proof/Machine/HardPwm.lean ====
section
/-! DEFINITION. The hardware PWM unit (43_hw_pwm.md): HPWM_INIT, HPWM_CLEANUP, HPWM_SET, HPWM_ENABLE, HPWM_DISABLE. -/

namespace Sys2Proof.Machine

/-- The rounded period count for divider `d` at `f` hertz (43_hw_pwm.md R144). -/
def periodCount (P : Params) (f d : Nat) : Nat := roundHalfUp P.pwmBaseHz (d * f)

/-- The frequency produced with divider `d` and period count `n` is within the tolerance of `f` (43_hw_pwm.md R144). -/
def withinTolerance (P : Params) (f d n : Nat) : Bool :=
  decide (absDiff P.pwmBaseHz (d * f * n) * 1000000 ≤ P.pwmTolPpm * (d * f * n))

/-- One turn of the loop of 43_hw_pwm.md R144. -/
def tryDivider (P : Params) (f d : Nat) : Option (Nat × Nat) :=
  let n := periodCount P f d
  if 1 ≤ n ∧ n ≤ P.pwmPeriodMax ∧ withinTolerance P f d n = true then some (d, n) else none

/-- `select(f)`: the smallest divider that works, with its period count (43_hw_pwm.md R144). -/
def select (P : Params) (f : Nat) : Option (Nat × Nat) :=
  (List.range' P.pwmDivMin (P.pwmDivMax + 1 - P.pwmDivMin)).findSome? (tryDivider P f)

/-- The duty count (43_hw_pwm.md R143). -/
def dutyCount (duty : BitVec 17) (period : Nat) : Nat := roundHalfUp (duty.toNat * period) 65536

/-- The selection a request needs, or `InvalidConfigurationError` (43_hw_pwm.md R142, R143). -/
def selection (P : Params) (freq : BitVec 32) : Act (Nat × Nat) :=
  match select P freq.toNat with
  | some sel => .ok sel
  | none => .error (.raise .invalidConfiguration)

/-- Write a natural number to a register, narrowed to a word. -/
def writeNat (s : State) (a : RegAddr) (n : Nat) : Act State := memWrite s a (BusWord.ofWord (BitVec.ofNat 32 n))

/-- `HPWM_INIT` (43_hw_pwm.md R140). -/
def execHpwmInit (s : State) : Result := command s do
  if s.block.pwmMapped then
    return (0#64, s)
  else
    require s.env.mapGrantPwm .hardwareAccess
    return (0#64, s.withPwmMapped true)

/-- `HPWM_CLEANUP` (43_hw_pwm.md R141). -/
def execHpwmCleanup (s : State) : Result := command s do
  return (0#64, s.withPwmMapped false)

/-- `HPWM_SET c, freq_hz, duty_q16` (43_hw_pwm.md R142, R143). -/
def execHpwmSet (ch : BitVec 8) (freq : BitVec 32) (duty : BitVec 17) (s : State) : Result := command s do
  requireIndex ch s.params.nhpwm
  requirePwm s
  require (decide (duty.toNat ≤ 65536 ∧ freq.toNat ≠ 0)) .invalidConfiguration
  let (div, period) ← selection s.params freq
  let s₁ ← writeNat s (.div ch.toNat) div
  let s₂ ← writeNat s₁ (.rng ch.toNat) period
  let s₃ ← writeNat s₂ (.dat ch.toNat) (dutyCount duty period)
  return (0#64, s₃)

/-- Route channel `c` to its pin, on a platform that needs it (43_hw_pwm.md R145). -/
def routeChannel (s : State) (c : Nat) : Act State := do
  if s.params.pwmNeedsAlt then
    requireGpio s
    let p ← present s.params.pwmPin[c]?
    let a ← present s.params.pwmAlt[c]?
    setFsel s p a
  else
    return s

/-- `HPWM_ENABLE c` (43_hw_pwm.md R145). -/
def execHpwmEnable (ch : BitVec 8) (s : State) : Result := command s do
  requireIndex ch s.params.nhpwm
  requirePwm s
  let t ← routeChannel s ch.toNat
  let b ← present s.params.pwmEnBit[ch.toNat]?
  let old ← memRead t .ctl
  let u ← memWrite t .ctl (old.or (BusWord.bit b))
  return (0#64, u)

/-- `HPWM_DISABLE c` (43_hw_pwm.md R146). -/
def execHpwmDisable (ch : BitVec 8) (s : State) : Result := command s do
  requireIndex ch s.params.nhpwm
  requirePwm s
  let b ← present s.params.pwmEnBit[ch.toNat]?
  let old ← memRead s .ctl
  let u ← memWrite s .ctl (old.andNot (BusWord.bit b))
  return (0#64, u)

end Sys2Proof.Machine
end

