-- ==== Sys2Proof/Machine/SoftPwm.lean ====
section
/-! DEFINITION. The software PWM unit (42_soft_pwm.md): SPWM_CFG, SPWM_POLL. -/

namespace Sys2Proof.Machine

/-- The schedule of a channel (42_soft_pwm.md R122). -/
structure Schedule where
  periodMs : Nat
  onMs : Nat
  offMs : Nat
  deriving DecidableEq, Repr

/-- `schedule(freq_hz, duty_q16)` (42_soft_pwm.md R122). -/
def schedule (freq : BitVec 32) (duty : BitVec 17) : Schedule :=
  let period := 1000 / freq.toNat
  let on := roundHalfUp (duty.toNat * period) 65536
  ⟨period, on, period - on⟩

/-- The configuration is representable (42_soft_pwm.md R121). -/
def softConfigOk (freq : BitVec 32) (duty : BitVec 17) : Bool :=
  decide (duty.toNat ≤ 65536 ∧ freq.toNat ≠ 0 ∧ freq.toNat ≤ 1000)

/-- Channel `SP[ch]`. -/
def channelAt (s : State) (ch : BitVec 8) : Act Channel := present s.block.spwm[ch.toNat]?

/-- `SP[ch] <- v`. -/
def setChannel (s : State) (ch : BitVec 8) (v : Channel) : State := s.withSpwm (s.block.spwm.set ch.toNat v)

/-- The timer armed at `now` for `d` milliseconds (42_soft_pwm.md R123, R125). -/
def armed (now d : Time) : Timer := ⟨d, add64 now d⟩

/-- The channel that `SPWM_CFG` starts (42_soft_pwm.md R123, R124): a steady channel's timer is not written. -/
def startedChannel (old : Channel) (pin : BitVec 8) (sch : Schedule) (now : Time) : Channel :=
  let on := BitVec.ofNat 64 sch.onMs
  { cfg := true
    pin := pin
    onMs := on
    offMs := BitVec.ofNat 64 sch.offMs
    phase := decide (sch.onMs ≠ 0)
    tmr := if sch.onMs ≠ 0 ∧ sch.offMs ≠ 0 then armed now on else old.tmr }

/-- A channel that never toggles (42_soft_pwm.md R124). -/
def Channel.steady (c : Channel) : Bool := decide (c.onMs = 0#64 ∨ c.offMs = 0#64)

/-- The channel after one transition at `now` (42_soft_pwm.md R125). -/
def Channel.toggled (c : Channel) (now : Time) : Channel :=
  { c with phase := !c.phase, tmr := armed now (if c.phase then c.offMs else c.onMs) }

/-- `SPWM_CFG s, pin, freq_hz, duty_q16` (42_soft_pwm.md R123). -/
def execSpwmCfg (ch pin : BitVec 8) (freq : BitVec 32) (duty : BitVec 17) (s : State) : Result := command s do
  requireIndex ch s.params.nspwm
  let now ← sampleClock s
  requireGpio s
  requirePin s pin
  require (softConfigOk freq duty) .invalidConfiguration
  let sch := schedule freq duty
  let old ← channelAt s ch
  let t ← digitalWriteTo s pin.toNat (decide (sch.onMs ≠ 0))
  return (0#64, setChannel t ch (startedChannel old pin sch now))

/-- `SPWM_POLL s` (42_soft_pwm.md R125): at most one transition. -/
def execSpwmPoll (ch : BitVec 8) (s : State) : Result := command s do
  requireIndex ch s.params.nspwm
  let now ← sampleClock s
  requireGpio s
  let c ← channelAt s ch
  require c.cfg .invalidConfiguration
  if c.steady then
    return (pollData c.phase false, s)
  else if reached now c.tmr.nextExpiry then
    let t ← digitalWriteTo s c.pin.toNat (!c.phase)
    return (pollData (!c.phase) true, setChannel t ch (c.toggled now))
  else
    return (pollData c.phase false, s)

end Sys2Proof.Machine
end

