-- ==== Sys2Proof/Machine/Dispatch.lean ====
section
/-! DEFINITION. Every command's meaning. -/

namespace Sys2Proof.Machine

/-- The effect of a command. -/
def exec (i : Instr) (s : State) : Host.Outcome State Fault Refusal :=
  match i with
  | .gpioInit => Sys2Proof.Machine.execGpioInit s
  | .gpioCleanup => Sys2Proof.Machine.execGpioCleanup s
  | .pinMode pin mode => Sys2Proof.Machine.execPinMode pin mode s
  | .digitalWrite pin level => Sys2Proof.Machine.execDigitalWrite pin level s
  | .digitalRead pin => Sys2Proof.Machine.execDigitalRead pin s
  | .millis => Sys2Proof.Machine.execMillis s
  | .timerSet t interval => Sys2Proof.Machine.execTimerSet t interval s
  | .timerExpired t => Sys2Proof.Machine.execTimerExpired t s
  | .timerTick t => Sys2Proof.Machine.execTimerTick t s
  | .spwmCfg ch pin freq duty => Sys2Proof.Machine.execSpwmCfg ch pin freq duty s
  | .spwmPoll ch => Sys2Proof.Machine.execSpwmPoll ch s
  | .hpwmInit => Sys2Proof.Machine.execHpwmInit s
  | .hpwmCleanup => Sys2Proof.Machine.execHpwmCleanup s
  | .hpwmSet ch freq duty => Sys2Proof.Machine.execHpwmSet ch freq duty s
  | .hpwmEnable ch => Sys2Proof.Machine.execHpwmEnable ch s
  | .hpwmDisable ch => Sys2Proof.Machine.execHpwmDisable ch s

end Sys2Proof.Machine
end

