-- ==== Sys2Proof/Machine/Port.lean ====
section
/-! DEFINITION. The command port and the other moves from outside the block: taking the next event, a frame that is no
command, a change of the inputs, and reset. -/

namespace Sys2Proof.Machine

/-- The next event and the state without it; `none` when the outside does nothing. -/
def takeEvent (s : State) : Option (Event × State) :=
  match s.script with
  | [] => none
  | e :: rest => some (e, s.withScript rest)

/-- A frame that matches no row: `IllegalCommand`, no state changes, the clock is not sampled (30_encoding.md R66). -/
def illegalFrame (s : State) : Result := command s (.error (.raise .illegalCommand))

/-- The environment changes its inputs; the block does nothing (00_scope.md R5). -/
def changeInputs (s : State) (e : Env) : State := (s.withEnv e).silent

/-- A timer slot after reset: free values (10_state.md R28). -/
def freeTimer (n i : Nat) : Timer := ⟨Config.resetTime n (.interval i), Config.resetTime n (.nextExpiry i)⟩

/-- A channel after reset: `cfg = 0`, the rest free values (10_state.md R28). -/
def freeChannel (n k : Nat) : Channel where
  cfg := false
  pin := Config.resetPin n k
  onMs := Config.resetTime n (.onMs k)
  offMs := Config.resetTime n (.offMs k)
  phase := Config.resetPhase n k
  tmr := ⟨Config.resetTime n (.chanInterval k), Config.resetTime n (.chanNextExpiry k)⟩

/-- The block after the `reset` input: the flags and the `cfg` bits are 0, the timers and the rest of the channel file
are unspecified, and "Reset does not write the GPIO or PWM bank" (70_reset_and_hazards.md R190; log 6). -/
def resetBlock (n : Nat) (b : Block) : Block :=
  { b with
    gpioMapped := false
    pwmMapped := false
    halted := false
    timers := b.timers.mapIdx fun i _ => freeTimer n i
    spwm := b.spwm.mapIdx fun k _ => freeChannel n k }

/-- The `reset` input (70_reset_and_hazards.md R190). -/
def takeReset (s : State) : State := ((s.withBlock (resetBlock s.draws s.block)).withRsp none).countDraw

/-- `F` presented on the port before everything else (log 2). -/
def presentFrame (s : State) (F : Frame) : State := s.withScript (.command F :: s.script)

end Sys2Proof.Machine
end

