-- ==== Sys2Proof/Machine/Step.lean ====
section
/-! DEFINITION. One step: the next event from outside, and what the block does with it. -/

namespace Sys2Proof.Machine

/-- One step. With nothing on the port nothing happens: "nothing inside the block advances between commands"
(00_scope.md R5; log 2). -/
def step (s : State) : Host.Outcome State Fault Refusal :=
  match takeEvent s with
  | none => .next s.silent
  | some (.command F, t) =>
    match decode F with
    | some i => exec i t
    | none => illegalFrame t
  | some (.environment e, t) => .next (changeInputs t e)
  | some (.reset, t) => .next (takeReset t)

/-- The state with the frame of `nbits` bits `w` presented on the port, where `step` takes it next. A frame has 96 bits;
bits above `nbits` are 0 (log 16). -/
def State.withFetchWord (s : State) (nbits w : Nat) : State :=
  presentFrame s (BitVec.ofNat 96 (w % 2 ^ min nbits 96))

end Sys2Proof.Machine
end

