-- ==== Sys2Proof/Machine/Views.lean ====
section
/-! DEFINITION. What the outside sees of the state and no command stores: the pads (10_state.md R19), the record `HP[c]`
(R21), the waveform of an enabled channel (43_hw_pwm.md R147), and a register's byte address (20_memory.md R50). -/

namespace Sys2Proof.Machine

/-- What the block does with a pad. -/
inductive Pad where
  /-- `pad_oe = 1`, `pad_out` at this level. -/
  | drives (level : Bool)
  /-- `pad_oe = 1`, `pad_out = pwm_out[c]`, which has no computed value (43_hw_pwm.md R147; log 14). -/
  | carries (channel : Nat)
  /-- `pad_oe = 0`. -/
  | released
  /-- The pads are unspecified (10_state.md R19). -/
  | unspecified
  deriving DecidableEq, Repr

/-- The channel whose waveform pin `p` carries when its function-select code is `f`: the first `c` with
`PWM_PIN[c] = p` and `PWM_ALT[c] = f` (10_state.md R19). -/
def carriedChannel (P : Params) (p : Nat) (f : Word) : Option Nat :=
  if P.pwmNeedsAlt then
    (List.range P.nhpwm).find? fun c => P.pwmPin[c]? == some p && P.pwmAlt[c]? == some f
  else none

/-- `pad_oe[p]` and `pad_out[p]` (10_state.md R19). -/
def pad (s : State) (p : Nat) : Pad :=
  match s.block.fsel[p]?, s.block.out[p]? with
  | some f, some o =>
    if f = s.params.fselOutput then .drives o
    else if f = s.params.fselInput then .released
    else
      match carriedChannel s.params p f with
      | some c => .carries c
      | none => .unspecified
  | _, _ => .unspecified

/-- `HP[c]`: "a view of the registers and not separate state" (10_state.md R21). -/
structure HwChannel where
  div : Word
  period : Word
  duty : Word
  en : Bool
  deriving DecidableEq, Repr

/-- `HP[c]`, for a channel the platform has. -/
def hwChannel (s : State) (c : Nat) : Option HwChannel := do
  let d ← s.block.pwmDiv[divIndex s.params c]?
  let r ← s.block.pwmRng[c]?
  let t ← s.block.pwmDat[c]?
  return ⟨d, r, t, enabled s c⟩

/-- The two facts the spec gives of a waveform (43_hw_pwm.md R147). -/
structure Waveform where
  /-- The period, in cycles of the base clock: `PWM.DIV[c] * PWM.RNG[c]`. -/
  periodCycles : Nat
  /-- HIGH for this many divided-clock cycles out of every `range`: `PWM.DAT[c]`. -/
  high : Nat
  /-- `PWM.RNG[c]`. -/
  range : Nat
  deriving DecidableEq, Repr

/-- The waveform of channel `c` while `EN[c] = 1` (43_hw_pwm.md R147). `none` where the spec gives none: the channel is
disabled, or its divider or range is 0, or its duty exceeds its range (93_implementation_defined.md U12). -/
def waveform (s : State) (c : Nat) : Option Waveform :=
  match hwChannel s c with
  | some h =>
    if h.en = true ∧ h.div ≠ 0#32 ∧ h.period ≠ 0#32 ∧ h.duty.toNat ≤ h.period.toNat then
      some ⟨h.div.toNat * h.period.toNat, h.duty.toNat, h.period.toNat⟩
    else none
  | none => none

/-- The byte address of a register on a platform: "Consecutive words of one array are 4 bytes apart"
(20_memory.md R50). Nothing reads it. -/
def byteAddress (m : AddressMap) : RegAddr → Option Nat
  | .fsel w => some (m.gpioBase + m.offFsel + 4 * w)
  | .set w => some (m.gpioBase + m.offSet + 4 * w)
  | .clr w => some (m.gpioBase + m.offClr + 4 * w)
  | .lev w => some (m.gpioBase + m.offLev + 4 * w)
  | .ctl => some (m.pwmBase + m.offCtl)
  | .div c => m.offDiv[c]?.map (m.pwmBase + ·)
  | .rng c => m.offRng[c]?.map (m.pwmBase + ·)
  | .dat c => m.offDat[c]?.map (m.pwmBase + ·)

end Sys2Proof.Machine
end

