-- ==== Sys2Proof/WellFormed.lean ====
section
/-! DEFINITION. When a parameter record is a legal platform (00_scope.md R7) and when a command's index operand
names something the platform has (30_encoding.md R67). -/

namespace Sys2Proof

/-- The constraints of 00_scope.md R7 on the GPIO geometry. -/
abbrev Params.GpioShape (P : Params) : Prop :=
  (1 ≤ P.npins ∧ P.npins ≤ 255) ∧
  (1 ≤ P.fselBits ∧ 1 ≤ P.fselPerWord ∧ P.fselBits * P.fselPerWord ≤ 32) ∧
  (P.fselInput.toNat < 2 ^ P.fselBits ∧ P.fselOutput.toNat < 2 ^ P.fselBits ∧ P.fselOutput ≠ P.fselInput) ∧
  (1 ≤ P.levelPerWord ∧ P.levelPerWord ≤ 32)

/-- The constraints of 00_scope.md R7 on the sizes of the three files. -/
abbrev Params.FileShape (P : Params) : Prop :=
  (1 ≤ P.ntimer ∧ P.ntimer ≤ 256) ∧ (1 ≤ P.nspwm ∧ P.nspwm ≤ 256) ∧ (1 ≤ P.nhpwm ∧ P.nhpwm ≤ 256)

/-- The constraints of 00_scope.md R7 on the PWM numbers. `PWM_DIV_MAX < 2^WORD` is read from 10_state.md R21,
where a divider is one `WORD`-bit word (DEDUCED, log 9). -/
abbrev Params.PwmShape (P : Params) : Prop :=
  1 ≤ P.pwmBaseHz ∧ (1 ≤ P.pwmDivMin ∧ P.pwmDivMin ≤ P.pwmDivMax ∧ P.pwmDivMax < 2 ^ 32) ∧
  (1 ≤ P.pwmPeriodMax ∧ P.pwmPeriodMax < 2 ^ 32) ∧
  (P.pwmEnBit.length = P.nhpwm ∧ (∀ b ∈ P.pwmEnBit, b < 32) ∧ P.pwmEnBit.Nodup)

/-- The constraints of 00_scope.md R7 on the pins that carry PWM; they are asked only of a platform that needs
an alternate function (DEDUCED, log 9). -/
abbrev Params.AltShape (P : Params) : Prop :=
  P.pwmNeedsAlt = true →
    (P.pwmPin.length = P.nhpwm ∧ (∀ p ∈ P.pwmPin, p < P.npins) ∧ P.pwmPin.Nodup) ∧
    (P.pwmAlt.length = P.nhpwm ∧
      ∀ a ∈ P.pwmAlt, a.toNat < 2 ^ P.fselBits ∧ a ≠ P.fselInput ∧ a ≠ P.fselOutput)

/-- A legal parameter record (00_scope.md R7). -/
abbrev Params.Valid (P : Params) : Prop := P.GpioShape ∧ P.FileShape ∧ P.PwmShape ∧ P.AltShape

/-- The index operand of a command lies inside its file (30_encoding.md R67). Pin operands are not checked here:
a bad pin is `InvalidPinError` (41_gpio.md R103). -/
abbrev Instr.WellFormed (P : Params) : Instr → Prop
  | .gpioInit => True
  | .gpioCleanup => True
  | .pinMode _ _ => True
  | .digitalWrite _ _ => True
  | .digitalRead _ => True
  | .millis => True
  | .timerSet t _ => t.toNat < P.ntimer
  | .timerExpired t => t.toNat < P.ntimer
  | .timerTick t => t.toNat < P.ntimer
  | .spwmCfg ch _ _ _ => ch.toNat < P.nspwm
  | .spwmPoll ch => ch.toNat < P.nspwm
  | .hpwmInit => True
  | .hpwmCleanup => True
  | .hpwmSet ch _ _ => ch.toNat < P.nhpwm
  | .hpwmEnable ch => ch.toNat < P.nhpwm
  | .hpwmDisable ch => ch.toNat < P.nhpwm

end Sys2Proof
end

