-- ==== Sys2Proof/Safety.lean ====
section
/-! DEFINITION. The terms claims use: the invariant every step keeps, the launch states, the law of the clock input, the
classes of commands the whole-machine rules speak of, and the end of a run. -/

namespace Sys2Proof.Machine

/-! ### The invariant -/

/-- Every file has the length the parameters give it (10_state.md R10). -/
abbrev Block.Shaped (P : Params) (b : Block) : Prop :=
  b.timers.length = P.ntimer ∧ b.fsel.length = P.npins ∧ b.out.length = P.npins ∧
  b.pwmDiv.length = (if P.pwmDivShared then 1 else P.nhpwm) ∧ b.pwmRng.length = P.nhpwm ∧
  b.pwmDat.length = P.nhpwm ∧ b.spwm.length = P.nspwm

/-- Every function-select field holds a code of `FSEL_BITS` bits (10_state.md R15). -/
abbrev Block.CodesFit (P : Params) (b : Block) : Prop := ∀ f ∈ b.fsel, f.toNat < 2 ^ P.fselBits

/-- What `SPWM_CFG` and `SPWM_POLL` leave in a configured channel: a valid pin, a schedule of at most 1000 ms, a steady
channel in its one phase, a toggling channel's timer armed for the phase it is in (42_soft_pwm.md R122 to R125). -/
abbrev Channel.Sound (P : Params) (c : Channel) : Prop :=
  c.cfg = true →
    c.pin.toNat < P.npins ∧
    (1 ≤ c.onMs.toNat + c.offMs.toNat ∧ c.onMs.toNat + c.offMs.toNat ≤ 1000) ∧
    (c.onMs = 0#64 → c.phase = false) ∧ (c.offMs = 0#64 → c.phase = true) ∧
    (c.steady = false → c.tmr.interval = if c.phase then c.onMs else c.offMs)

/-- The invariant: a legal platform, files of its sizes, codes that fit, sound channels. -/
abbrev State.Inv (s : State) : Prop :=
  s.params.Valid ∧ s.block.Shaped s.params ∧ s.block.CodesFit s.params ∧ ∀ c ∈ s.block.spwm, c.Sound s.params

/-- The launch states of 70_reset_and_hazards.md R191: the three flags and the `cfg` bits are zero, everything else,
the inputs and what the outside does next among it, is free. -/
abbrev State.Launch (s : State) : Prop :=
  s.params.Valid ∧ s.block.Shaped s.params ∧ s.block.CodesFit s.params ∧
  s.block.gpioMapped = false ∧ s.block.pwmMapped = false ∧ s.block.halted = false ∧
  ∀ c ∈ s.block.spwm, c.cfg = false

/-- Channel `c`'s triple is one that `HPWM_SET` writes (10_state.md R21). -/
abbrev TripleOk (s : State) (c : Nat) : Prop :=
  ∃ h, hwChannel s c = some h ∧
    (s.params.pwmDivMin ≤ h.div.toNat ∧ h.div.toNat ≤ s.params.pwmDivMax) ∧
    (1 ≤ h.period.toNat ∧ h.period.toNat ≤ s.params.pwmPeriodMax) ∧ h.duty.toNat ≤ h.period.toNat

/-! ### Classes of commands -/

/-- The commands that sample the clock (40_clock_timer.md R82). -/
def samplesClock : Instr → Bool
  | .millis => true
  | .timerSet _ _ => true
  | .timerExpired _ => true
  | .timerTick _ => true
  | .spwmCfg _ _ _ _ => true
  | .spwmPoll _ => true
  | .gpioInit => false
  | .gpioCleanup => false
  | .pinMode _ _ => false
  | .digitalWrite _ _ => false
  | .digitalRead _ => false
  | .hpwmInit => false
  | .hpwmCleanup => false
  | .hpwmSet _ _ _ => false
  | .hpwmEnable _ => false
  | .hpwmDisable _ => false

/-- The commands that need the GPIO bank (60_exceptions.md R161). -/
def needsGpioBank (P : Params) : Instr → Bool
  | .pinMode _ _ => true
  | .digitalWrite _ _ => true
  | .digitalRead _ => true
  | .spwmCfg _ _ _ _ => true
  | .spwmPoll _ => true
  | .hpwmEnable _ => P.pwmNeedsAlt
  | .gpioInit => false
  | .gpioCleanup => false
  | .millis => false
  | .timerSet _ _ => false
  | .timerExpired _ => false
  | .timerTick _ => false
  | .hpwmInit => false
  | .hpwmCleanup => false
  | .hpwmSet _ _ _ => false
  | .hpwmDisable _ => false

/-- The commands that need the PWM bank (60_exceptions.md R161). -/
def needsPwmBank : Instr → Bool
  | .hpwmSet _ _ _ => true
  | .hpwmEnable _ => true
  | .hpwmDisable _ => true
  | .gpioInit => false
  | .gpioCleanup => false
  | .pinMode _ _ => false
  | .digitalWrite _ _ => false
  | .digitalRead _ => false
  | .millis => false
  | .timerSet _ _ => false
  | .timerExpired _ => false
  | .timerTick _ => false
  | .spwmCfg _ _ _ _ => false
  | .spwmPoll _ => false
  | .hpwmInit => false
  | .hpwmCleanup => false

/-- The pin operand of a command that has one (60_exceptions.md R164). -/
def pinOperand : Instr → Option (BitVec 8)
  | .pinMode pin _ => some pin
  | .digitalWrite pin _ => some pin
  | .digitalRead pin => some pin
  | .spwmCfg _ pin _ _ => some pin
  | .gpioInit => none
  | .gpioCleanup => none
  | .millis => none
  | .timerSet _ _ => none
  | .timerExpired _ => none
  | .timerTick _ => none
  | .spwmPoll _ => none
  | .hpwmInit => none
  | .hpwmCleanup => none
  | .hpwmSet _ _ _ => none
  | .hpwmEnable _ => none
  | .hpwmDisable _ => none

/-- The one pin whose function or latch a command may change (41_gpio.md R109): its operand pin, its channel's pin, or
`PWM_PIN[c]`. -/
def touchedPin (s : State) : Instr → Option Nat
  | .pinMode pin _ => some pin.toNat
  | .digitalWrite pin _ => some pin.toNat
  | .spwmCfg _ pin _ _ => some pin.toNat
  | .spwmPoll ch => s.block.spwm[ch.toNat]?.map fun c => c.pin.toNat
  | .hpwmEnable ch => if s.params.pwmNeedsAlt then s.params.pwmPin[ch.toNat]? else none
  | .digitalRead _ => none
  | .gpioInit => none
  | .gpioCleanup => none
  | .millis => none
  | .timerSet _ _ => none
  | .timerExpired _ => none
  | .timerTick _ => none
  | .hpwmInit => none
  | .hpwmCleanup => none
  | .hpwmSet _ _ _ => none
  | .hpwmDisable _ => none

/-- The errors a command can be answered with, by the column "raised by" of 60_exceptions.md R160; every frame can be
`IllegalCommand`. -/
def mayRaise : Instr → List ErrorKind
  | .gpioInit => [.hardwareAccess, .illegalCommand]
  | .gpioCleanup => [.illegalCommand]
  | .pinMode _ _ => [.notInitialized, .invalidPin, .illegalCommand]
  | .digitalWrite _ _ => [.notInitialized, .invalidPin, .invalidPinState, .illegalCommand]
  | .digitalRead _ => [.notInitialized, .invalidPin, .illegalCommand]
  | .millis => [.illegalCommand]
  | .timerSet _ _ => [.illegalCommand]
  | .timerExpired _ => [.illegalCommand]
  | .timerTick _ => [.illegalCommand]
  | .spwmCfg _ _ _ _ => [.notInitialized, .invalidPin, .invalidPinState, .invalidConfiguration, .illegalCommand]
  | .spwmPoll _ => [.notInitialized, .invalidPinState, .invalidConfiguration, .illegalCommand]
  | .hpwmInit => [.hardwareAccess, .illegalCommand]
  | .hpwmCleanup => [.illegalCommand]
  | .hpwmSet _ _ _ => [.notInitialized, .invalidConfiguration, .illegalCommand]
  | .hpwmEnable _ => [.notInitialized, .illegalCommand]
  | .hpwmDisable _ => [.notInitialized, .illegalCommand]

/-- A command is answered with this error code, `data = 0`, and nothing else happens: "no state of the block has changed"
(60_exceptions.md R166). -/
abbrev RejectedWith (code : BitVec 8) (i : Instr) (s : State) : Prop :=
  ∃ t, exec i s = .next t ∧ t.rsp = some ⟨code, 0#64⟩ ∧ t.block = s.block ∧ t.params = s.params ∧ t.env = s.env ∧
    t.script = s.script

/-- The clock is available, where the command samples it. -/
abbrev ClockServes (i : Instr) (s : State) : Prop := samplesClock i = true → s.env.clockOk = true

/-- The inputs with another time. -/
abbrev State.atTime (s : State) (now : Time) : State := s.withEnv { s.env with nowMs := now }

/-! ### Runs -/

/-- The commands of `l` one after the other, the inputs held as they are, up to the first stop. -/
def execAll : List Instr → State → Result
  | [], s => .next s
  | i :: rest, s =>
    match exec i s with
    | .next t => execAll rest t
    | .fault f => .fault f
    | .refused r => .refused r

/-- The law a claim may assume of the clock (40_clock_timer.md R80): between one reset and the next, the values that
successive commands sample never decrease. `last` is the last sample since reset, `now` the input as it stands. The
step does not enforce it (log 13). -/
def ClockLaw (P : Params) : (last : Option Time) → (now : Time) → List Event → Prop
  | _, _, [] => True
  | last, _, .environment e :: rest => ClockLaw P last e.nowMs rest
  | _, now, .reset :: rest => ClockLaw P none now rest
  | last, now, .command F :: rest =>
    ((∃ i, decode F = some i ∧ i.WellFormed P ∧ samplesClock i = true) →
        (∀ l, last = some l → l.toNat ≤ now.toNat) ∧ ClockLaw P (some now) now rest) ∧
    ((¬ ∃ i, decode F = some i ∧ i.WellFormed P ∧ samplesClock i = true) → ClockLaw P last now rest)

/-- No command of the present run is still to come. A run is "a finite sequence of commands issued after a reset"
(70_reset_and_hazards.md R201): a change of the inputs is no part of it, and what follows the next reset is another run
(DEDUCED, log 23). -/
def lastAnswered : List Event → Bool
  | [] => true
  | .environment _ :: rest => lastAnswered rest
  | .reset :: _ => true
  | .command _ :: _ => false

/-- A run has ended cleanly: "the last command has been answered", the block is not halted and both banks are unmapped
(70_reset_and_hazards.md R201). -/
abbrev State.EndedCleanly (s : State) : Prop :=
  lastAnswered s.script = true ∧ s.block.halted = false ∧ s.block.gpioMapped = false ∧ s.block.pwmMapped = false

end Sys2Proof.Machine
end

