-- ==== Sys2Proof/Certificates/Slice0/Obligations.lean ====
section
/-! DEFINITION. The statements for the provers. Each docstring names the rule of spec/ it formalises.

`(s.withX v).answer d` is the state `s` with field `X` replaced by `v`, the response `OK` with data `d`, and the draw number
advanced: all else is as in `s`. -/

open Sys2Proof Sys2Proof.Machine

/-! ### Encoding -/

/-- Decoding the frame of a command gives the command back, for every command and every value of every operand
(30_encoding.md R60, R61, R65). -/
def Obligations.DecodeOfEncode : Prop := ∀ i : Instr, decode (encode i) = some i

/-- A frame that decodes is the frame of the command it decodes to: no bit of a frame is dropped (30_encoding.md R61, R66). -/
def Obligations.EncodeOfDecode : Prop := ∀ (F : Frame) (i : Instr), decode F = some i → encode i = F

/-- "The rows are disjoint because their `op` values differ": a frame is covered by at most one row (30_encoding.md R65). -/
def Obligations.OpcodeRowsDisjoint : Prop :=
  ∀ (F : Frame), ∀ r ∈ opcodeTable, ∀ r' ∈ opcodeTable, r.covers F = true → r'.covers F = true → r = r'

/-- The eight frames of the worked table of 30_encoding.md section 7, written out there digit by digit. -/
def Obligations.WorkedFramesDecode : Prop :=
  decode 0x010000000000000000000000#96 = some .gpioInit ∧
  decode 0x031100010000000000000000#96 = some (.pinMode 17#8 .output) ∧
  decode 0x041100010000000000000000#96 = some (.digitalWrite 17#8 .high) ∧
  decode 0x051100000000000000000000#96 = some (.digitalRead 17#8) ∧
  decode 0x1100000000000000000001F4#96 = some (.timerSet 0#8 500#64) ∧
  decode 0x130000000000000000000000#96 = some (.timerTick 0#8) ∧
  decode 0x200012000000800000000064#96 = some (.spwmCfg 0#8 18#8 100#32 0x8000#17) ∧
  decode 0x3201000000008000000003E8#96 = some (.hpwmSet 1#8 1000#32 0x8000#17)

/-- A frame that no row covers is answered with status 6 and `data = 0` and changes no state, whether or not there is a
clock; a frame whose `op` is not one of the sixteen is such a frame, and so is a frame with the `op` of a row and a bit that
the row's mask and match do not allow (30_encoding.md R66). -/
def Obligations.UncoveredFrameIsIllegal : Prop :=
  (∀ (s : State) (F : Frame) (rest : List Event),
    s.script = .command F :: rest → s.block.halted = false → (∀ r ∈ opcodeTable, r.covers F = false) →
    ∃ t, step s = .next t ∧ t.rsp = some ⟨6#8, 0#64⟩ ∧ t.block = s.block ∧ t.params = s.params ∧ t.env = s.env ∧
      t.script = rest) ∧
  (∀ F : Frame,
    F.op ∉ [0x01#8, 0x02#8, 0x03#8, 0x04#8, 0x05#8, 0x10#8, 0x11#8, 0x12#8, 0x13#8, 0x20#8, 0x21#8, 0x30#8, 0x31#8,
      0x32#8, 0x33#8, 0x34#8] →
    ∀ r ∈ opcodeTable, r.covers F = false) ∧
  (∀ (F : Frame), ∀ r ∈ opcodeTable, F.op = r.pattern.op → F &&& r.mask ≠ r.pattern →
    ∀ r' ∈ opcodeTable, r'.covers F = false)

/-- A command whose index operand is outside its file is answered with `IllegalCommand` and changes no state, before
every check of the command's own rule: whatever the flags, the pin and the clock are; no other command is answered with
it, so no pin operand is (30_encoding.md R67). -/
def Obligations.IndexOutsideFileIsIllegal : Prop :=
  (∀ (i : Instr) (s : State), s.block.halted = false → ¬ i.WellFormed s.params → RejectedWith 6#8 i s) ∧
  (∀ (i : Instr) (s t : State) (r : Response), exec i s = .next t → t.rsp = some r → r.status = 6#8 →
    ¬ i.WellFormed s.params)

/-! ### Steps -/

/-- A step runs the command its frame decodes to, on the state with the frame taken off the port. -/
def Obligations.StepRunsDecodedCommand : Prop :=
  ∀ (s : State) (F : Frame) (rest : List Event) (i : Instr),
    s.script = .command F :: rest → decode F = some i → step s = exec i (s.withScript rest)

/-- "nothing inside the block advances between commands" (00_scope.md R5): a step with an idle port, and a change of the
inputs, leave the block as it is. (The port's script is the model's own, log 2.) -/
def Obligations.NothingAdvancesBetweenCommands : Prop :=
  (∀ s : State, s.script = [] → step s = .next (s.withRsp none)) ∧
  (∀ (s : State) (e : Env) (rest : List Event), s.script = .environment e :: rest →
    step s = .next (((s.withScript rest).withEnv e).withRsp none))

/-- The `reset` input: the three flags and every `cfg` bit become 0, the two banks keep their registers, the files keep
their sizes (70_reset_and_hazards.md R190; 10_state.md R28). -/
def Obligations.ResetInputClearsFlags : Prop :=
  ∀ (s : State) (rest : List Event), s.script = .reset :: rest →
    ∃ t, step s = .next t ∧
      t.block.gpioMapped = false ∧ t.block.pwmMapped = false ∧ t.block.halted = false ∧
      (∀ c ∈ t.block.spwm, c.cfg = false) ∧ t.block.spwm.length = s.block.spwm.length ∧
      t.block.timers.length = s.block.timers.length ∧
      t.block.fsel = s.block.fsel ∧ t.block.out = s.block.out ∧ t.block.pwmCtl = s.block.pwmCtl ∧
      t.block.pwmDiv = s.block.pwmDiv ∧ t.block.pwmRng = s.block.pwmRng ∧ t.block.pwmDat = s.block.pwmDat ∧
      t.params = s.params ∧ t.env = s.env ∧ t.script = rest ∧ t.rsp = none

/-! ### The invariant -/

/-- Every launch state meets the invariant, and so does the state after reset, which is one of them
(70_reset_and_hazards.md R191). The values the model gives that state where the spec gives none are log 3 and log 4. -/
def Obligations.LaunchStatesMeetInvariant : Prop :=
  (∀ s : State, s.Launch → s.Inv) ∧ State.reset.Launch ∧ State.reset.Inv

/-- Every step keeps the invariant: legal parameters, files of their sizes, function-select codes of `FSEL_BITS` bits, and
configured channels with a valid pin, a schedule of 1 to 1000 ms and a timer armed for the phase they are in. -/
def Obligations.StepKeepsInvariant : Prop := ∀ s t : State, s.Inv → step s = .next t → t.Inv

/-- From every state that meets the invariant a step answers a next state: no command, no frame and no input makes the
model fault or refuse (20_memory.md R40, R46: no command forms an access to an unmapped bank or a missing register). -/
def Obligations.StepNeverStops : Prop := ∀ s : State, s.Inv → ∃ t, step s = .next t

/-- `DIV`, `RNG` and `DAT` of a channel that `HPWM_SET` has written stay in their ranges, with `DAT <= RNG`, under every
command (10_state.md R21). -/
def Obligations.LegalTripleStaysLegal : Prop :=
  ∀ (i : Instr) (s t : State) (c : Nat), s.Inv → TripleOk s c → exec i s = .next t → TripleOk t c

/-! ### Errors, halting, the clock -/

/-- A command answered with an error has `data = 0` and has changed no state of the block (60_exceptions.md R166). -/
def Obligations.FailedCommandChangesNothing : Prop :=
  ∀ (i : Instr) (s t : State) (r : Response),
    exec i s = .next t → t.rsp = some r → r.status ≠ 0#8 → r.data = 0#64 ∧ t.block = s.block

/-- A command is answered with OK or with an error that 60_exceptions.md R160 lists for it; codes 7 to 255 never occur. -/
def Obligations.AnswersCarryListedCodes : Prop :=
  ∀ (i : Instr) (s t : State) (r : Response), s.block.halted = false → exec i s = .next t → t.rsp = some r →
    r.status = 0#8 ∨ ∃ e ∈ mayRaise i, r.status = e.code

/-- A halted block stays as it is and answers nothing, whatever the host and the environment do, until reset
(60_exceptions.md R169; 10_state.md R14). -/
def Obligations.HaltedBlockStaysSilent : Prop :=
  ∀ (s : State) (e : Event) (rest : List Event), s.block.halted = true → s.script = e :: rest → e ≠ .reset →
    ∃ t, step s = .next t ∧ t.block = s.block ∧ t.rsp = none ∧ t.script = rest ∧ t.params = s.params

/-- A command that samples the clock while `clock_ok = 0` halts the block: `halted <- 1`, no other state changes, no
response; unmapped banks and bad pins make no difference (40_clock_timer.md R81). -/
def Obligations.ClockLossHalts : Prop :=
  ∀ (i : Instr) (s : State), s.block.halted = false → i.WellFormed s.params → samplesClock i = true →
    s.env.clockOk = false →
    ∃ t, exec i s = .next t ∧ t.block = { s.block with halted := true } ∧ t.rsp = none ∧ t.params = s.params ∧
      t.env = s.env ∧ t.script = s.script

/-- Nothing else halts the block, and nothing else leaves a command without a response (60_exceptions.md R169;
30_encoding.md R63). -/
def Obligations.OnlyClockLossSilences : Prop :=
  ∀ (i : Instr) (s t : State), s.block.halted = false → exec i s = .next t →
    (t.block.halted = true ∨ t.rsp = none) →
    samplesClock i = true ∧ i.WellFormed s.params ∧ s.env.clockOk = false

/-- "No other command samples the clock" (40_clock_timer.md R82): another time and another `clock_ok` change neither the
response nor the effect of any other command. -/
def Obligations.OtherCommandsIgnoreTheClock : Prop :=
  ∀ (i : Instr) (s t : State) (now : Time) (ok : Bool), samplesClock i = false → exec i s = .next t →
    exec i (s.withEnv { s.env with nowMs := now, clockOk := ok }) =
      .next (t.withEnv { s.env with nowMs := now, clockOk := ok })

/-- The values that two `MILLIS` return between two resets never decrease, whatever happens in between, if the clock
keeps its law (40_clock_timer.md R80, R83). -/
def Obligations.MillisNeverDecreases : Prop :=
  ∀ (s t u : State) (mid : List Event) (d₁ d₂ : Data),
    s.script = .command (encode .millis) :: (mid ++ [.command (encode .millis)]) → (∀ e ∈ mid, e ≠ .reset) →
    ClockLaw s.params none s.env.nowMs s.script →
    step s = .next t → t.rsp = some ⟨0#8, d₁⟩ →
    Sys2Proof.core.run (mid.length + 2) s = .next u → u.rsp = some ⟨0#8, d₂⟩ → d₁.toNat ≤ d₂.toNat

/-! ### What no command changes -/

/-- No command changes the parameters, the inputs or what is still to come on the port (10_state.md R23). -/
def Obligations.CommandsKeepTheirSurroundings : Prop :=
  ∀ (i : Instr) (s t : State), exec i s = .next t → t.params = s.params ∧ t.env = s.env ∧ t.script = s.script

/-- "No command changes `FSEL[q]` or `OUT[q]` of any pin `q` other than its own operand pin", its channel's pin, or
`PWM_PIN[c]`; nor the observed level of such a pin, for the same inputs and the same draw (41_gpio.md R109). -/
def Obligations.BitIsolation : Prop :=
  ∀ (i : Instr) (s t : State) (q : Nat), s.Inv → exec i s = .next t → touchedPin s i ≠ some q →
    t.block.fsel[q]? = s.block.fsel[q]? ∧ t.block.out[q]? = s.block.out[q]? ∧ ∀ d, pinLevel t q d = pinLevel s q d

/-- A timer slot is written only by `TIMER_SET` and `TIMER_TICK` of that slot (10_state.md R12). -/
def Obligations.TimerSlotsAreIndependent : Prop :=
  ∀ (i : Instr) (s t : State) (k : Nat), exec i s = .next t →
    (∀ (j : BitVec 8) (v : BitVec 64), i = .timerSet j v → j.toNat ≠ k) →
    (∀ j : BitVec 8, i = .timerTick j → j.toNat ≠ k) →
    t.block.timers[k]? = s.block.timers[k]?

/-- A channel record is written only by `SPWM_CFG` and `SPWM_POLL` of that channel, and no command clears `cfg`
(10_state.md R22; 42_soft_pwm.md R127). -/
def Obligations.ChannelRecordsAreIndependent : Prop :=
  (∀ (i : Instr) (s t : State) (k : Nat), exec i s = .next t →
    (∀ (j p : BitVec 8) (f : BitVec 32) (q : BitVec 17), i = .spwmCfg j p f q → j.toNat ≠ k) →
    (∀ j : BitVec 8, i = .spwmPoll j → j.toNat ≠ k) →
    t.block.spwm[k]? = s.block.spwm[k]?) ∧
  (∀ (i : Instr) (s t : State) (k : Nat) (c : Channel), exec i s = .next t → s.block.spwm[k]? = some c → c.cfg = true →
    ∃ c', t.block.spwm[k]? = some c' ∧ c'.cfg = true)

/-- The mapping flags are written only by the init and the cleanup of their bank (10_state.md R14). -/
def Obligations.MappingFlagsChangeOnlyByInitAndCleanup : Prop :=
  ∀ (i : Instr) (s t : State), exec i s = .next t →
    (i ≠ .gpioInit → i ≠ .gpioCleanup → t.block.gpioMapped = s.block.gpioMapped) ∧
    (i ≠ .hpwmInit → i ≠ .hpwmCleanup → t.block.pwmMapped = s.block.pwmMapped)

/-- The PWM bank is written only by `HPWM_SET`, `HPWM_ENABLE` and `HPWM_DISABLE` (10_state.md R20, R21, R25). -/
def Obligations.PwmBankChangesOnlyByItsCommands : Prop :=
  ∀ (i : Instr) (s t : State), exec i s = .next t → needsPwmBank i = false →
    t.block.pwmCtl = s.block.pwmCtl ∧ t.block.pwmDiv = s.block.pwmDiv ∧ t.block.pwmRng = s.block.pwmRng ∧
    t.block.pwmDat = s.block.pwmDat

/-! ### The register banks -/

/-- A write of a function-select word sets the field of every pin of that word to the written bits, changes no other pin's
field and nothing else, and a read shows it (20_memory.md R41, R42). -/
def Obligations.FselWordReadsBack : Prop :=
  ∀ (s t : State) (w : Nat) (v : BusWord), s.Inv → memWrite s (.fsel w) v = .ok t →
    t = s.withFsel t.block.fsel ∧
    (∀ (p j : Nat) (f : Word), j < s.params.fselBits → t.block.fsel[p]? = some f → fselWord s.params p = w →
      f.getLsbD j = v (fselOffset s.params p + j) ∧
      ∃ l, memRead t (.fsel w) = .ok l ∧ l (fselOffset s.params p + j) = v (fselOffset s.params p + j)) ∧
    (∀ p, fselWord s.params p ≠ w → t.block.fsel[p]? = s.block.fsel[p]?)

/-- A write to `SET` or `CLR` changes the latch of exactly the pins of that word whose bit is 1 and that are outputs, and
nothing else: a 0 bit and a pin that is not an output change nothing (20_memory.md R43, R44). -/
def Obligations.SetAndClearTouchOnlyOutputs : Prop :=
  ∀ (s t : State) (w : Nat) (v : BusWord) (level : Bool),
    memWrite s (if level then .set w else .clr w) v = .ok t →
    t = s.withOut t.block.out ∧ t.block.out.length = s.block.out.length ∧
    ∀ p o, s.block.out[p]? = some o →
      t.block.out[p]? = some
        (if levelWord s.params p = w ∧ v (levelOffset s.params p) = true ∧ s.block.fsel[p]? = some s.params.fselOutput
         then level else o)

/-- The level register shows every pin of its word at its bit, and a write to it changes nothing (20_memory.md R45, R46). -/
def Obligations.LevelRegisterShowsPins : Prop :=
  ∀ (s : State) (w : Nat), s.Inv → s.block.gpioMapped = true → w < s.params.nlev →
    (∀ v, memWrite s (.lev w) v = .ok s) ∧
    ∃ l, memRead s (.lev w) = .ok l ∧
      ∀ p o, s.block.out[p]? = some o → levelWord s.params p = w →
        (s.block.fsel[p]? = some s.params.fselOutput → l (levelOffset s.params p) = o) ∧
        (s.block.fsel[p]? = some s.params.fselInput → l (levelOffset s.params p) = s.env.padIn.getLsbD p)

/-- The PWM registers are plain storage: a write replaces the word, a read returns the word last written, and the writes of
one channel's range and duty leave every other register alone (20_memory.md R47). -/
def Obligations.PwmRegistersAreStorage : Prop :=
  ∀ (s : State) (c : Nat) (v : Word), s.Inv → s.block.pwmMapped = true → c < s.params.nhpwm →
    (∃ t, memWrite s .ctl (BusWord.ofWord v) = .ok t ∧ t = s.withPwmCtl v ∧ memRead t .ctl = .ok (BusWord.ofWord v)) ∧
    (∃ t, memWrite s (.div c) (BusWord.ofWord v) = .ok t ∧ t = s.withPwmDiv t.block.pwmDiv ∧
      memRead t (.div c) = .ok (BusWord.ofWord v) ∧
      ∀ c', c' < s.params.nhpwm →
        memRead t (.div c') = if s.params.pwmDivShared = true ∨ c' = c then .ok (BusWord.ofWord v) else memRead s (.div c')) ∧
    (∃ t, memWrite s (.rng c) (BusWord.ofWord v) = .ok t ∧ t = s.withPwmRng t.block.pwmRng ∧
      memRead t (.rng c) = .ok (BusWord.ofWord v) ∧ ∀ c', c' ≠ c → memRead t (.rng c') = memRead s (.rng c')) ∧
    (∃ t, memWrite s (.dat c) (BusWord.ofWord v) = .ok t ∧ t = s.withPwmDat t.block.pwmDat ∧
      memRead t (.dat c) = .ok (BusWord.ofWord v) ∧ ∀ c', c' ≠ c → memRead t (.dat c') = memRead s (.dat c'))

/-! ### Errors that several commands share -/

/-- Every command that needs a bank is answered with `NotInitializedError` while the bank is not mapped, whatever its
pin and configuration operands are (60_exceptions.md R161). -/
def Obligations.UnmappedBankIsRejected : Prop :=
  ∀ (i : Instr) (s : State), s.block.halted = false → i.WellFormed s.params → ClockServes i s →
    ((needsGpioBank s.params i = true ∧ s.block.gpioMapped = false) ∨
      (needsPwmBank i = true ∧ s.block.pwmMapped = false)) →
    RejectedWith 2#8 i s

/-- Every command with a pin operand is answered with `InvalidPinError` when the pin is `>= NPINS`, whatever its
configuration operands are (60_exceptions.md R164). -/
def Obligations.BadPinIsRejected : Prop :=
  ∀ (i : Instr) (s : State) (pin : BitVec 8), s.block.halted = false → i.WellFormed s.params → ClockServes i s →
    s.block.gpioMapped = true → pinOperand i = some pin → s.params.npins ≤ pin.toNat → RejectedWith 3#8 i s

/-- `InvalidConfigurationError`: `SPWM_CFG` with a duty above 1, frequency 0 or above 1000 Hz; `HPWM_SET` with a duty above
1, frequency 0, or a frequency no divider represents; `SPWM_POLL` of a channel never configured (60_exceptions.md R168). -/
def Obligations.BadConfigurationIsRejected : Prop :=
  (∀ (s : State) (ch pin : BitVec 8) (freq : BitVec 32) (duty : BitVec 17), s.block.halted = false →
    ch.toNat < s.params.nspwm → s.env.clockOk = true → s.block.gpioMapped = true → pin.toNat < s.params.npins →
    (65536 < duty.toNat ∨ freq.toNat = 0 ∨ 1000 < freq.toNat) → RejectedWith 5#8 (.spwmCfg ch pin freq duty) s) ∧
  (∀ (s : State) (ch : BitVec 8) (freq : BitVec 32) (duty : BitVec 17), s.block.halted = false →
    ch.toNat < s.params.nhpwm → s.block.pwmMapped = true →
    (65536 < duty.toNat ∨ freq.toNat = 0 ∨ select s.params freq.toNat = none) →
    RejectedWith 5#8 (.hpwmSet ch freq duty) s) ∧
  (∀ (s : State) (ch : BitVec 8) (c : Channel), s.block.halted = false → ch.toNat < s.params.nspwm →
    s.env.clockOk = true → s.block.gpioMapped = true → s.block.spwm[ch.toNat]? = some c → c.cfg = false →
    RejectedWith 5#8 (.spwmPoll ch) s)

/-- `InvalidPinStateError`: `DIGITAL_WRITE`, `SPWM_CFG` with a good configuration, and an `SPWM_POLL` that is due to toggle,
on a pin whose function-select code is anything but `FSEL_OUTPUT`; never `DIGITAL_READ` (60_exceptions.md R167; 41_gpio.md
R107). -/
def Obligations.NonOutputPinIsRejected : Prop :=
  (∀ (s : State) (pin : BitVec 8) (level : Level) (f : Word), s.Inv → s.block.halted = false →
    s.block.gpioMapped = true → s.block.fsel[pin.toNat]? = some f → f ≠ s.params.fselOutput →
    RejectedWith 4#8 (.digitalWrite pin level) s) ∧
  (∀ (s : State) (ch pin : BitVec 8) (freq : BitVec 32) (duty : BitVec 17) (f : Word), s.Inv →
    s.block.halted = false → ch.toNat < s.params.nspwm → s.env.clockOk = true → s.block.gpioMapped = true →
    duty.toNat ≤ 65536 → freq.toNat ≠ 0 → freq.toNat ≤ 1000 → s.block.fsel[pin.toNat]? = some f →
    f ≠ s.params.fselOutput → RejectedWith 4#8 (.spwmCfg ch pin freq duty) s) ∧
  (∀ (s : State) (ch : BitVec 8) (c : Channel) (f : Word), s.Inv → s.block.halted = false →
    s.env.clockOk = true → s.block.gpioMapped = true → s.block.spwm[ch.toNat]? = some c → c.cfg = true →
    c.onMs ≠ 0#64 → c.offMs ≠ 0#64 → reached s.env.nowMs c.tmr.nextExpiry = true →
    s.block.fsel[c.pin.toNat]? = some f → f ≠ s.params.fselOutput → RejectedWith 4#8 (.spwmPoll ch) s) ∧
  (∀ (s t : State) (pin : BitVec 8) (r : Response), exec (.digitalRead pin) s = .next t → t.rsp = some r →
    r.status ≠ 4#8)

/-! ### The clock and timer unit -/

/-- `MILLIS` returns the sample and changes nothing (40_clock_timer.md R83). -/
def Obligations.MillisReturnsNow : Prop :=
  ∀ s : State, s.block.halted = false →
    (s.env.clockOk = true → exec .millis s = .next (s.answer s.env.nowMs)) ∧
    (s.env.clockOk = false → exec .millis s = .next s.halt)

/-- `TIMER_SET t, i` makes slot `t` the pair `{i, now + i}` and changes nothing else (40_clock_timer.md R85). -/
def Obligations.TimerSetArmsSlot : Prop :=
  ∀ (s : State) (t : BitVec 8) (i : BitVec 64), s.block.halted = false → t.toNat < s.params.ntimer →
    s.block.timers.length = s.params.ntimer → s.env.clockOk = true →
    exec (.timerSet t i) s =
      .next ((s.withTimers (s.block.timers.set t.toNat ⟨i, add64 s.env.nowMs i⟩)).answer 0#64)

/-- `TIMER_EXPIRED t` answers whether the deadline has been reached and changes nothing (40_clock_timer.md R86). -/
def Obligations.TimerExpiredTestsDeadline : Prop :=
  ∀ (s : State) (t : BitVec 8) (slot : Timer), s.block.halted = false → t.toNat < s.params.ntimer →
    s.block.timers[t.toNat]? = some slot → s.env.clockOk = true →
    exec (.timerExpired t) s = .next (s.answer (if (s.env.nowMs - slot.nextExpiry).toNat < 2 ^ 63 then 1#64 else 0#64))

/-- `TIMER_TICK t` fires at most once: a reached deadline moves by exactly one interval and 1 is returned, any other is
left alone and 0 is returned (40_clock_timer.md R88, R89). -/
def Obligations.TimerTickRearmsOnce : Prop :=
  ∀ (s : State) (t : BitVec 8) (slot : Timer), s.block.halted = false → t.toNat < s.params.ntimer →
    s.block.timers[t.toNat]? = some slot → s.env.clockOk = true →
    (reached s.env.nowMs slot.nextExpiry = true →
      exec (.timerTick t) s =
        .next ((s.withTimers (s.block.timers.set t.toNat ⟨slot.interval, slot.nextExpiry + slot.interval⟩)).answer 1#64)) ∧
    (reached s.env.nowMs slot.nextExpiry = false → exec (.timerTick t) s = .next (s.answer 0#64))

/-- Time arithmetic is modulo `2^64`, `reached` is `sub64(now, t) < 2^63`, the exact agreement of `reached` with `now >= t`,
and the example outside its range (40_clock_timer.md R84). -/
def Obligations.ReachedAgreesWithGe : Prop :=
  (∀ a b : Time, (add64 a b).toNat = (a.toNat + b.toNat) % 2 ^ 64) ∧
  (∀ a b : Time, (sub64 a b).toNat = (a.toNat + (2 ^ 64 - b.toNat)) % 2 ^ 64) ∧
  (∀ now t : Time, reached now t = true ↔ (sub64 now t).toNat < 2 ^ 63) ∧
  (∀ now t : Time, t.toNat ≤ now.toNat → now.toNat - t.toNat < 2 ^ 63 → reached now t = true) ∧
  (∀ now t : Time, now.toNat < t.toNat → t.toNat - now.toNat ≤ 2 ^ 63 → reached now t = false) ∧
  reached 0#64 (BitVec.ofNat 64 (2 ^ 63 + 1)) = true

/-- After `TIMER_SET t, i` with `1 <= i <= 2^63`, `TIMER_EXPIRED t` is false until `i` milliseconds have gone by and true
from then on; after `TIMER_SET t, 0` it is true (40_clock_timer.md R85, R86, R87). -/
def Obligations.TimerExpiresAfterItsInterval : Prop :=
  ∀ (s : State) (t : BitVec 8) (i : BitVec 64) (now : Time), s.block.halted = false → t.toNat < s.params.ntimer →
    s.block.timers.length = s.params.ntimer → s.env.clockOk = true → i.toNat ≤ 2 ^ 63 →
    (now - s.env.nowMs).toNat < 2 ^ 63 →
    ∃ u, exec (.timerSet t i) s = .next u ∧
      exec (.timerExpired t) (u.atTime now) =
        .next ((u.atTime now).answer (if i.toNat ≤ (now - s.env.nowMs).toNat then 1#64 else 0#64))

/-- A zero-interval timer: its deadline is `now`, `TIMER_EXPIRED` answers 1 from then on, and every `TIMER_TICK` answers 1
and leaves the deadline where it is (40_clock_timer.md R87). -/
def Obligations.ZeroIntervalFiresForEver : Prop :=
  ∀ (s : State) (t : BitVec 8) (now : Time), s.block.halted = false → t.toNat < s.params.ntimer →
    s.block.timers.length = s.params.ntimer → s.env.clockOk = true → (now - s.env.nowMs).toNat < 2 ^ 63 →
    ∃ u, exec (.timerSet t 0#64) s = .next u ∧ u.block.timers[t.toNat]? = some ⟨0#64, s.env.nowMs⟩ ∧
      exec (.timerExpired t) (u.atTime now) = .next ((u.atTime now).answer 1#64) ∧
      exec (.timerTick t) (u.atTime now) = .next ((u.atTime now).answer 1#64)

/-- Missed intervals are replayed one per later call: a slot armed at `t0` and first polled at `t0 + m*I + r` answers 1 to
the next `m` ticks, which leave its deadline at `t0 + (m+1)*I`, and 0 to the one after (40_clock_timer.md R90). -/
def Obligations.MissedIntervalsAreReplayed : Prop :=
  ∀ (s : State) (t : BitVec 8) (t0 interval : Time) (m r : Nat), s.block.halted = false →
    t.toNat < s.params.ntimer → s.env.clockOk = true → s.block.timers[t.toNat]? = some ⟨interval, t0 + interval⟩ →
    1 ≤ interval.toNat → r < interval.toNat → s.env.nowMs.toNat = t0.toNat + m * interval.toNat + r →
    t0.toNat + (m + 1) * interval.toNat < 2 ^ 64 → (m + 1) * interval.toNat ≤ 2 ^ 63 →
    (∀ k, 1 ≤ k → k ≤ m → ∃ u, execAll (List.replicate k (.timerTick t)) s = .next u ∧ u.rsp = some ⟨0#8, 1#64⟩ ∧
      u.block.timers[t.toNat]? = some ⟨interval, BitVec.ofNat 64 (t0.toNat + (k + 1) * interval.toNat)⟩) ∧
    (∃ u, execAll (List.replicate (m + 1) (.timerTick t)) s = .next u ∧ u.rsp = some ⟨0#8, 0#64⟩ ∧
      u.block.timers[t.toNat]? = some ⟨interval, BitVec.ofNat 64 (t0.toNat + (m + 1) * interval.toNat)⟩)

/-! ### Mapping and unmapping -/

/-- `GPIO_INIT` and `HPWM_INIT`: a no-op when the bank is mapped, whatever the grant; otherwise the bank is mapped, or the
command fails with `HardwareAccessError` when no mapping is granted (41_gpio.md R100; 43_hw_pwm.md R140). -/
def Obligations.InitMapsItsBank : Prop :=
  ∀ s : State, s.block.halted = false →
    (s.block.gpioMapped = true → exec .gpioInit s = .next (s.answer 0#64)) ∧
    (s.block.gpioMapped = false → s.env.mapGrantGpio = true →
      exec .gpioInit s = .next ((s.withGpioMapped true).answer 0#64)) ∧
    (s.block.gpioMapped = false → s.env.mapGrantGpio = false → RejectedWith 1#8 .gpioInit s) ∧
    (s.block.pwmMapped = true → exec .hpwmInit s = .next (s.answer 0#64)) ∧
    (s.block.pwmMapped = false → s.env.mapGrantPwm = true →
      exec .hpwmInit s = .next ((s.withPwmMapped true).answer 0#64)) ∧
    (s.block.pwmMapped = false → s.env.mapGrantPwm = false → RejectedWith 1#8 .hpwmInit s)

/-- `GPIO_CLEANUP` and `HPWM_CLEANUP` always answer OK, clear their own mapping flag and change nothing else; a run whose
last commands are the two cleanups has ended cleanly (41_gpio.md R101; 43_hw_pwm.md R141), whatever changes of the
inputs are still to come. That commands after the next reset belong to another run is the model's reading (log 23). -/
def Obligations.CleanupClearsOnlyItsFlag : Prop :=
  ∀ s : State, s.block.halted = false →
    exec .gpioCleanup s = .next ((s.withGpioMapped false).answer 0#64) ∧
    exec .hpwmCleanup s = .next ((s.withPwmMapped false).answer 0#64) ∧
    (lastAnswered s.script = true → ∃ t, execAll [.hpwmCleanup, .gpioCleanup] s = .next t ∧ t.EndedCleanly)

/-! ### The GPIO unit -/

/-- `GPIO_CLEANUP` and then a granted `GPIO_INIT` leave every pin as it was, and the pads keep driving throughout
(41_gpio.md R112). -/
def Obligations.ReinitKeepsEveryPin : Prop :=
  ∀ s : State, s.block.halted = false → s.env.mapGrantGpio = true →
    ∃ u t, exec .gpioCleanup s = .next u ∧ u.block = { s.block with gpioMapped := false } ∧
      exec .gpioInit u = .next t ∧ t.block = { s.block with gpioMapped := true } ∧
      ∀ p, pad u p = pad s p ∧ pad t p = pad s p

/-- `PIN_MODE pin, mode`: `NotInitializedError`, else `InvalidPinError`, else the pin's function-select field takes the code
of the mode and nothing else changes (41_gpio.md R106). -/
def Obligations.PinModeWritesOneField : Prop :=
  ∀ (s : State) (pin : BitVec 8) (mode : Mode), s.Inv → s.block.halted = false →
    (s.block.gpioMapped = false → RejectedWith 2#8 (.pinMode pin mode) s) ∧
    (s.block.gpioMapped = true → s.params.npins ≤ pin.toNat → RejectedWith 3#8 (.pinMode pin mode) s) ∧
    (s.block.gpioMapped = true → pin.toNat < s.params.npins →
      exec (.pinMode pin mode) s =
        .next ((s.withFsel (s.block.fsel.set pin.toNat
          (match mode with | .output => s.params.fselOutput | .input => s.params.fselInput))).answer 0#64))

/-- `DIGITAL_WRITE pin, level` on an output sets the pin's latch to the level and changes nothing else (41_gpio.md R107,
R108). -/
def Obligations.DigitalWriteSetsOneLatch : Prop :=
  ∀ (s : State) (pin : BitVec 8) (level : Level), s.Inv → s.block.halted = false → s.block.gpioMapped = true →
    s.block.fsel[pin.toNat]? = some s.params.fselOutput →
    exec (.digitalWrite pin level) s =
      .next ((s.withOut (s.block.out.set pin.toNat (decide (level = .high)))).answer 0#64)

/-- `DIGITAL_READ pin` answers 0 or 1 and changes nothing: the latch of an output, the pad of an input, and a level no rule
fixes for a pin in any other function (41_gpio.md R110; 10_state.md R18). -/
def Obligations.DigitalReadReturnsLevel : Prop :=
  ∀ (s : State) (pin : BitVec 8) (f : Word) (o : Bool), s.Inv → s.block.halted = false →
    s.block.gpioMapped = true → s.block.fsel[pin.toNat]? = some f → s.block.out[pin.toNat]? = some o →
    ∃ b : Bool, exec (.digitalRead pin) s = .next (s.answer (if b then 1#64 else 0#64)) ∧
      (f = s.params.fselOutput → b = o) ∧ (f = s.params.fselInput → b = s.env.padIn.getLsbD pin.toNat)

/-- After a successful `DIGITAL_WRITE p, v`, every `DIGITAL_READ p` in a state that still has the bank mapped and `FSEL[p]`
and `OUT[p]` as the write left them returns `v`, whatever else has changed (41_gpio.md R111). -/
def Obligations.ReadReturnsLastWrite : Prop :=
  ∀ (s t u : State) (pin : BitVec 8) (level : Level) (d : Data), s.Inv → s.block.halted = false →
    exec (.digitalWrite pin level) s = .next t → t.rsp = some ⟨0#8, d⟩ →
    u.Inv → u.params = t.params → u.block.halted = false → u.block.gpioMapped = true →
    u.block.fsel[pin.toNat]? = t.block.fsel[pin.toNat]? → u.block.out[pin.toNat]? = t.block.out[pin.toNat]? →
    exec (.digitalRead pin) u = .next (u.answer (match level with | .low => 0#64 | .high => 1#64))

/-- The pads follow the commands at once (10_state.md R19): `PIN_MODE` to INPUT releases the pad, `PIN_MODE` to OUTPUT makes it
drive the latch as it was, `DIGITAL_WRITE` makes it drive the level, `HPWM_ENABLE` makes it carry the channel's waveform. -/
def Obligations.PadsFollowAtOnce : Prop :=
  ∀ (s : State), s.Inv → s.block.halted = false → s.block.gpioMapped = true →
    (∀ pin : BitVec 8, pin.toNat < s.params.npins →
      ∃ t, exec (.pinMode pin .input) s = .next t ∧ pad t pin.toNat = .released) ∧
    (∀ (pin : BitVec 8) (o : Bool), s.block.out[pin.toNat]? = some o →
      ∃ t, exec (.pinMode pin .output) s = .next t ∧ pad t pin.toNat = .drives o) ∧
    (∀ (pin : BitVec 8) (level : Level), s.block.fsel[pin.toNat]? = some s.params.fselOutput →
      ∃ t, exec (.digitalWrite pin level) s = .next t ∧ pad t pin.toNat = .drives (decide (level = .high))) ∧
    (∀ (ch : BitVec 8) (p : Nat), s.block.pwmMapped = true → s.params.pwmNeedsAlt = true →
      s.params.pwmPin[ch.toNat]? = some p →
      ∃ t, exec (.hpwmEnable ch) s = .next t ∧ pad t p = .carries ch.toNat)

/-! ### The software PWM unit -/

/-- The schedule of every valid configuration: its three formulas, `1 <= period_ms <= 1000`, `on_ms + off_ms = period_ms`, the
two ends of the duty range, and the width of the intermediate value (42_soft_pwm.md R122). -/
def Obligations.ScheduleFillsThePeriod : Prop :=
  ∀ (freq : BitVec 32) (duty : BitVec 17), duty.toNat ≤ 65536 → freq.toNat ≠ 0 → freq.toNat ≤ 1000 →
    (schedule freq duty).periodMs = 1000 / freq.toNat ∧
    (schedule freq duty).onMs = (duty.toNat * (1000 / freq.toNat) + 32768) / 65536 ∧
    (schedule freq duty).onMs + (schedule freq duty).offMs = (schedule freq duty).periodMs ∧
    1 ≤ (schedule freq duty).periodMs ∧ (schedule freq duty).periodMs ≤ 1000 ∧
    (duty.toNat = 0 → (schedule freq duty).onMs = 0) ∧ (duty.toNat = 65536 → (schedule freq duty).offMs = 0) ∧
    (schedule freq duty).onMs ≤ (schedule freq duty).periodMs ∧ (schedule freq duty).offMs ≤ (schedule freq duty).periodMs ∧
    duty.toNat * (1000 / freq.toNat) + 32768 < 2 ^ 27

/-- `SPWM_CFG` on an output pin with a valid configuration writes the pin's first level, the whole record, and, unless the
channel is steady, its timer armed for `on_ms` from now; nothing else changes (42_soft_pwm.md R123, R124). -/
def Obligations.SpwmCfgStartsTheChannel : Prop :=
  ∀ (s : State) (ch pin : BitVec 8) (freq : BitVec 32) (duty : BitVec 17) (old : Channel), s.Inv →
    s.block.halted = false → s.env.clockOk = true → s.block.gpioMapped = true →
    s.block.spwm[ch.toNat]? = some old → duty.toNat ≤ 65536 → freq.toNat ≠ 0 → freq.toNat ≤ 1000 →
    s.block.fsel[pin.toNat]? = some s.params.fselOutput →
    let on := (schedule freq duty).onMs
    let off := (schedule freq duty).offMs
    exec (.spwmCfg ch pin freq duty) s =
      .next (((s.withOut (s.block.out.set pin.toNat (decide (on ≠ 0)))).withSpwm (s.block.spwm.set ch.toNat
        { cfg := true
          pin := pin
          onMs := BitVec.ofNat 64 on
          offMs := BitVec.ofNat 64 off
          phase := decide (on ≠ 0)
          tmr := if on = 0 ∨ off = 0 then old.tmr
                 else ⟨BitVec.ofNat 64 on, s.env.nowMs + BitVec.ofNat 64 on⟩ })).answer 0#64)

/-- `SPWM_POLL` of a configured channel: a steady channel and a channel whose deadline is not reached answer their phase and
nothing changes; a due channel writes the other level, enters the other phase with its timer armed from now for that
phase's duration, and answers the new phase with `data[1] = 1` (42_soft_pwm.md R125). -/
def Obligations.SpwmPollMakesOneTransition : Prop :=
  ∀ (s : State) (ch : BitVec 8) (c : Channel), s.Inv → s.block.halted = false → s.env.clockOk = true →
    s.block.gpioMapped = true → s.block.spwm[ch.toNat]? = some c → c.cfg = true →
    ((c.onMs = 0#64 ∨ c.offMs = 0#64 ∨ reached s.env.nowMs c.tmr.nextExpiry = false) →
      exec (.spwmPoll ch) s = .next (s.answer (if c.phase then 1#64 else 0#64))) ∧
    (c.onMs ≠ 0#64 → c.offMs ≠ 0#64 → reached s.env.nowMs c.tmr.nextExpiry = true →
      s.block.fsel[c.pin.toNat]? = some s.params.fselOutput →
      exec (.spwmPoll ch) s =
        .next (((s.withOut (s.block.out.set c.pin.toNat (!c.phase))).withSpwm (s.block.spwm.set ch.toNat
          { c with
            phase := !c.phase
            tmr := if c.phase then ⟨c.offMs, s.env.nowMs + c.offMs⟩ else ⟨c.onMs, s.env.nowMs + c.onMs⟩ })).answer
          (if c.phase then 2#64 else 3#64)))

/-- A phase lasts at least its duration and ends at the first poll after that: after a poll that made a transition at one
instant, a poll at an instant `e` later (with the pin left alone) makes the next one exactly when `e` is not less than the
duration of the phase entered, which is at least 1, so at the same instant it makes none (42_soft_pwm.md R126). -/
def Obligations.PhaseLastsItsDuration : Prop :=
  ∀ (s t : State) (ch : BitVec 8) (d : Data) (now : Time), s.Inv → s.block.halted = false →
    exec (.spwmPoll ch) s = .next t → t.rsp = some ⟨0#8, d⟩ → d.getLsbD 1 = true →
    (now - s.env.nowMs).toNat < 2 ^ 63 →
    ∃ c, t.block.spwm[ch.toNat]? = some c ∧ 1 ≤ (if c.phase then c.onMs else c.offMs).toNat ∧
      ((now - s.env.nowMs).toNat < (if c.phase then c.onMs else c.offMs).toNat →
        exec (.spwmPoll ch) (t.atTime now) = .next ((t.atTime now).answer (if c.phase then 1#64 else 0#64))) ∧
      ((if c.phase then c.onMs else c.offMs).toNat ≤ (now - s.env.nowMs).toNat →
        ∃ u, exec (.spwmPoll ch) (t.atTime now) = .next u ∧ u.rsp = some ⟨0#8, if c.phase then 2#64 else 3#64⟩)

/-- A channel configured with a rounded duration of 0 is steady: polls at any time change nothing, LOW when `on_ms = 0`, HIGH
when `off_ms = 0` (42_soft_pwm.md R124). -/
def Obligations.SteadyChannelNeverToggles : Prop :=
  ∀ (s t : State) (ch pin : BitVec 8) (freq : BitVec 32) (duty : BitVec 17) (d : Data) (now : Time), s.Inv →
    s.block.halted = false → exec (.spwmCfg ch pin freq duty) s = .next t → t.rsp = some ⟨0#8, d⟩ →
    ((schedule freq duty).onMs = 0 →
      exec (.spwmPoll ch) (t.atTime now) = .next ((t.atTime now).answer 0#64)) ∧
    ((schedule freq duty).offMs = 0 →
      exec (.spwmPoll ch) (t.atTime now) = .next ((t.atTime now).answer 1#64))

/-! ### The hardware PWM unit -/

/-- `select(f)` is the smallest divider of the range whose rounded period count is in range and within the tolerance, with
that count; it is none exactly when no divider is (43_hw_pwm.md R144). -/
def Obligations.SelectFindsSmallestDivider : Prop :=
  ∀ (P : Params) (f : Nat), P.Valid → 1 ≤ f →
    let works := fun d : Nat =>
      P.pwmDivMin ≤ d ∧ d ≤ P.pwmDivMax ∧
      1 ≤ (2 * P.pwmBaseHz + d * f) / (2 * (d * f)) ∧ (2 * P.pwmBaseHz + d * f) / (2 * (d * f)) ≤ P.pwmPeriodMax ∧
      ((P.pwmBaseHz : Int) - d * f * ((2 * P.pwmBaseHz + d * f) / (2 * (d * f)) : Nat)).natAbs * 1000000 ≤
        P.pwmTolPpm * (d * f * ((2 * P.pwmBaseHz + d * f) / (2 * (d * f))))
    (∀ d n, select P f = some (d, n) ↔
      works d ∧ n = (2 * P.pwmBaseHz + d * f) / (2 * (d * f)) ∧ ∀ d', d' < d → ¬ works d') ∧
    (select P f = none ↔ ∀ d, ¬ works d)

/-- `HPWM_SET` writes the selected divider, the period count and the rounded duty count to the channel's three registers (the
one divider register when it is shared) and nothing else, and leaves the triple legal (43_hw_pwm.md R143; 10_state.md R21). -/
def Obligations.HpwmSetWritesTheTriple : Prop :=
  ∀ (s : State) (ch : BitVec 8) (freq : BitVec 32) (duty : BitVec 17) (div period : Nat), s.Inv →
    s.block.halted = false → ch.toNat < s.params.nhpwm → s.block.pwmMapped = true → duty.toNat ≤ 65536 →
    freq.toNat ≠ 0 → select s.params freq.toNat = some (div, period) →
    ∃ t, exec (.hpwmSet ch freq duty) s = .next t ∧
      t = (((s.withPwmDiv (s.block.pwmDiv.set (if s.params.pwmDivShared then 0 else ch.toNat) (BitVec.ofNat 32 div))).withPwmRng
          (s.block.pwmRng.set ch.toNat (BitVec.ofNat 32 period))).withPwmDat
          (s.block.pwmDat.set ch.toNat (BitVec.ofNat 32 ((duty.toNat * period + 32768) / 65536)))).answer 0#64 ∧
      TripleOk t ch.toNat

/-- `HPWM_ENABLE` routes the channel to its pin, where the platform needs that, sets the channel's bit of `PWM.CTL`, and
changes nothing else; `HPWM_DISABLE` clears that bit and changes nothing else (43_hw_pwm.md R145, R146). -/
def Obligations.EnableAndDisableWriteOneBit : Prop :=
  ∀ (s : State) (ch : BitVec 8) (b : Nat), s.Inv → s.block.halted = false → s.block.pwmMapped = true →
    s.params.pwmEnBit[ch.toNat]? = some b →
    (s.params.pwmNeedsAlt = false →
      exec (.hpwmEnable ch) s = .next ((s.withPwmCtl (s.block.pwmCtl ||| BitVec.twoPow 32 b)).answer 0#64)) ∧
    (∀ (p : Nat) (a : Word), s.params.pwmNeedsAlt = true → s.block.gpioMapped = true →
      s.params.pwmPin[ch.toNat]? = some p → s.params.pwmAlt[ch.toNat]? = some a →
      exec (.hpwmEnable ch) s =
        .next (((s.withFsel (s.block.fsel.set p a)).withPwmCtl (s.block.pwmCtl ||| BitVec.twoPow 32 b)).answer 0#64)) ∧
    exec (.hpwmDisable ch) s = .next ((s.withPwmCtl (s.block.pwmCtl &&& ~~~ BitVec.twoPow 32 b)).answer 0#64)

/-- Enabling or disabling a channel changes its own enable bit and no other channel's (10_state.md R20). -/
def Obligations.EnableBitsAreIndependent : Prop :=
  ∀ (s t : State) (ch : BitVec 8) (d : Data), s.Inv → s.block.halted = false →
    (exec (.hpwmEnable ch) s = .next t → t.rsp = some ⟨0#8, d⟩ →
      enabled t ch.toNat = true ∧ ∀ c, c ≠ ch.toNat → enabled t c = enabled s c) ∧
    (exec (.hpwmDisable ch) s = .next t → t.rsp = some ⟨0#8, d⟩ →
      enabled t ch.toNat = false ∧ ∀ c, c ≠ ch.toNat → enabled t c = enabled s c)

/-- `HPWM_SET` and then `HPWM_ENABLE` of a channel, both answered OK, start a waveform whose frequency is within the tolerance
of the one asked for and whose HIGH part is the rounded duty (43_hw_pwm.md R143 to R147). -/
def Obligations.EnabledWaveformMeetsRequest : Prop :=
  ∀ (s t u : State) (ch : BitVec 8) (freq : BitVec 32) (duty : BitVec 17) (d e : Data), s.Inv →
    s.block.halted = false → exec (.hpwmSet ch freq duty) s = .next t → t.rsp = some ⟨0#8, d⟩ →
    exec (.hpwmEnable ch) t = .next u → u.rsp = some ⟨0#8, e⟩ →
    ∃ w, waveform u ch.toNat = some w ∧
      ((s.params.pwmBaseHz : Int) - w.periodCycles * freq.toNat).natAbs * 1000000 ≤
        s.params.pwmTolPpm * (w.periodCycles * freq.toNat) ∧
      w.high = (duty.toNat * w.range + 32768) / 65536 ∧ 1 ≤ w.range ∧ w.high ≤ w.range
end

