-- ==== Sys2Proof/Laws/State.lean ====
section
/-! SUPPORT. One lemma for each field and each update of the state, true by `rfl`, so that no later proof unfolds a record
update. -/

namespace Sys2Proof.Machine

/-- A statement about every entry of a list of words, checked entry by entry. `decide` on the statement itself looks for
all `2^32` words. -/
theorem forall_mem_of_all {l : List Word} {q : Word → Prop} [DecidablePred q] (h : l.all (fun f => decide (q f)) = true) :
    ∀ f ∈ l, q f := by
  simpa using h


/-! ### `withGpioMapped` -/

@[simp] theorem State.withGpioMapped_params (s : State) (v : Bool) : (s.withGpioMapped v).params = s.params := rfl
@[simp] theorem State.withGpioMapped_env (s : State) (v : Bool) : (s.withGpioMapped v).env = s.env := rfl
@[simp] theorem State.withGpioMapped_script (s : State) (v : Bool) : (s.withGpioMapped v).script = s.script := rfl
@[simp] theorem State.withGpioMapped_draws (s : State) (v : Bool) : (s.withGpioMapped v).draws = s.draws := rfl
@[simp] theorem State.withGpioMapped_rsp (s : State) (v : Bool) : (s.withGpioMapped v).rsp = s.rsp := rfl
@[simp] theorem State.withGpioMapped_gpioMapped (s : State) (v : Bool) : (s.withGpioMapped v).block.gpioMapped = v := rfl
@[simp] theorem State.withGpioMapped_pwmMapped (s : State) (v : Bool) : (s.withGpioMapped v).block.pwmMapped = s.block.pwmMapped := rfl
@[simp] theorem State.withGpioMapped_halted (s : State) (v : Bool) : (s.withGpioMapped v).block.halted = s.block.halted := rfl
@[simp] theorem State.withGpioMapped_timers (s : State) (v : Bool) : (s.withGpioMapped v).block.timers = s.block.timers := rfl
@[simp] theorem State.withGpioMapped_fsel (s : State) (v : Bool) : (s.withGpioMapped v).block.fsel = s.block.fsel := rfl
@[simp] theorem State.withGpioMapped_out (s : State) (v : Bool) : (s.withGpioMapped v).block.out = s.block.out := rfl
@[simp] theorem State.withGpioMapped_pwmCtl (s : State) (v : Bool) : (s.withGpioMapped v).block.pwmCtl = s.block.pwmCtl := rfl
@[simp] theorem State.withGpioMapped_pwmDiv (s : State) (v : Bool) : (s.withGpioMapped v).block.pwmDiv = s.block.pwmDiv := rfl
@[simp] theorem State.withGpioMapped_pwmRng (s : State) (v : Bool) : (s.withGpioMapped v).block.pwmRng = s.block.pwmRng := rfl
@[simp] theorem State.withGpioMapped_pwmDat (s : State) (v : Bool) : (s.withGpioMapped v).block.pwmDat = s.block.pwmDat := rfl
@[simp] theorem State.withGpioMapped_spwm (s : State) (v : Bool) : (s.withGpioMapped v).block.spwm = s.block.spwm := rfl

/-! ### `withPwmMapped` -/

@[simp] theorem State.withPwmMapped_params (s : State) (v : Bool) : (s.withPwmMapped v).params = s.params := rfl
@[simp] theorem State.withPwmMapped_env (s : State) (v : Bool) : (s.withPwmMapped v).env = s.env := rfl
@[simp] theorem State.withPwmMapped_script (s : State) (v : Bool) : (s.withPwmMapped v).script = s.script := rfl
@[simp] theorem State.withPwmMapped_draws (s : State) (v : Bool) : (s.withPwmMapped v).draws = s.draws := rfl
@[simp] theorem State.withPwmMapped_rsp (s : State) (v : Bool) : (s.withPwmMapped v).rsp = s.rsp := rfl
@[simp] theorem State.withPwmMapped_gpioMapped (s : State) (v : Bool) : (s.withPwmMapped v).block.gpioMapped = s.block.gpioMapped := rfl
@[simp] theorem State.withPwmMapped_pwmMapped (s : State) (v : Bool) : (s.withPwmMapped v).block.pwmMapped = v := rfl
@[simp] theorem State.withPwmMapped_halted (s : State) (v : Bool) : (s.withPwmMapped v).block.halted = s.block.halted := rfl
@[simp] theorem State.withPwmMapped_timers (s : State) (v : Bool) : (s.withPwmMapped v).block.timers = s.block.timers := rfl
@[simp] theorem State.withPwmMapped_fsel (s : State) (v : Bool) : (s.withPwmMapped v).block.fsel = s.block.fsel := rfl
@[simp] theorem State.withPwmMapped_out (s : State) (v : Bool) : (s.withPwmMapped v).block.out = s.block.out := rfl
@[simp] theorem State.withPwmMapped_pwmCtl (s : State) (v : Bool) : (s.withPwmMapped v).block.pwmCtl = s.block.pwmCtl := rfl
@[simp] theorem State.withPwmMapped_pwmDiv (s : State) (v : Bool) : (s.withPwmMapped v).block.pwmDiv = s.block.pwmDiv := rfl
@[simp] theorem State.withPwmMapped_pwmRng (s : State) (v : Bool) : (s.withPwmMapped v).block.pwmRng = s.block.pwmRng := rfl
@[simp] theorem State.withPwmMapped_pwmDat (s : State) (v : Bool) : (s.withPwmMapped v).block.pwmDat = s.block.pwmDat := rfl
@[simp] theorem State.withPwmMapped_spwm (s : State) (v : Bool) : (s.withPwmMapped v).block.spwm = s.block.spwm := rfl

/-! ### `withHalted` -/

@[simp] theorem State.withHalted_params (s : State) (v : Bool) : (s.withHalted v).params = s.params := rfl
@[simp] theorem State.withHalted_env (s : State) (v : Bool) : (s.withHalted v).env = s.env := rfl
@[simp] theorem State.withHalted_script (s : State) (v : Bool) : (s.withHalted v).script = s.script := rfl
@[simp] theorem State.withHalted_draws (s : State) (v : Bool) : (s.withHalted v).draws = s.draws := rfl
@[simp] theorem State.withHalted_rsp (s : State) (v : Bool) : (s.withHalted v).rsp = s.rsp := rfl
@[simp] theorem State.withHalted_gpioMapped (s : State) (v : Bool) : (s.withHalted v).block.gpioMapped = s.block.gpioMapped := rfl
@[simp] theorem State.withHalted_pwmMapped (s : State) (v : Bool) : (s.withHalted v).block.pwmMapped = s.block.pwmMapped := rfl
@[simp] theorem State.withHalted_halted (s : State) (v : Bool) : (s.withHalted v).block.halted = v := rfl
@[simp] theorem State.withHalted_timers (s : State) (v : Bool) : (s.withHalted v).block.timers = s.block.timers := rfl
@[simp] theorem State.withHalted_fsel (s : State) (v : Bool) : (s.withHalted v).block.fsel = s.block.fsel := rfl
@[simp] theorem State.withHalted_out (s : State) (v : Bool) : (s.withHalted v).block.out = s.block.out := rfl
@[simp] theorem State.withHalted_pwmCtl (s : State) (v : Bool) : (s.withHalted v).block.pwmCtl = s.block.pwmCtl := rfl
@[simp] theorem State.withHalted_pwmDiv (s : State) (v : Bool) : (s.withHalted v).block.pwmDiv = s.block.pwmDiv := rfl
@[simp] theorem State.withHalted_pwmRng (s : State) (v : Bool) : (s.withHalted v).block.pwmRng = s.block.pwmRng := rfl
@[simp] theorem State.withHalted_pwmDat (s : State) (v : Bool) : (s.withHalted v).block.pwmDat = s.block.pwmDat := rfl
@[simp] theorem State.withHalted_spwm (s : State) (v : Bool) : (s.withHalted v).block.spwm = s.block.spwm := rfl

/-! ### `withTimers` -/

@[simp] theorem State.withTimers_params (s : State) (v : List Timer) : (s.withTimers v).params = s.params := rfl
@[simp] theorem State.withTimers_env (s : State) (v : List Timer) : (s.withTimers v).env = s.env := rfl
@[simp] theorem State.withTimers_script (s : State) (v : List Timer) : (s.withTimers v).script = s.script := rfl
@[simp] theorem State.withTimers_draws (s : State) (v : List Timer) : (s.withTimers v).draws = s.draws := rfl
@[simp] theorem State.withTimers_rsp (s : State) (v : List Timer) : (s.withTimers v).rsp = s.rsp := rfl
@[simp] theorem State.withTimers_gpioMapped (s : State) (v : List Timer) : (s.withTimers v).block.gpioMapped = s.block.gpioMapped := rfl
@[simp] theorem State.withTimers_pwmMapped (s : State) (v : List Timer) : (s.withTimers v).block.pwmMapped = s.block.pwmMapped := rfl
@[simp] theorem State.withTimers_halted (s : State) (v : List Timer) : (s.withTimers v).block.halted = s.block.halted := rfl
@[simp] theorem State.withTimers_timers (s : State) (v : List Timer) : (s.withTimers v).block.timers = v := rfl
@[simp] theorem State.withTimers_fsel (s : State) (v : List Timer) : (s.withTimers v).block.fsel = s.block.fsel := rfl
@[simp] theorem State.withTimers_out (s : State) (v : List Timer) : (s.withTimers v).block.out = s.block.out := rfl
@[simp] theorem State.withTimers_pwmCtl (s : State) (v : List Timer) : (s.withTimers v).block.pwmCtl = s.block.pwmCtl := rfl
@[simp] theorem State.withTimers_pwmDiv (s : State) (v : List Timer) : (s.withTimers v).block.pwmDiv = s.block.pwmDiv := rfl
@[simp] theorem State.withTimers_pwmRng (s : State) (v : List Timer) : (s.withTimers v).block.pwmRng = s.block.pwmRng := rfl
@[simp] theorem State.withTimers_pwmDat (s : State) (v : List Timer) : (s.withTimers v).block.pwmDat = s.block.pwmDat := rfl
@[simp] theorem State.withTimers_spwm (s : State) (v : List Timer) : (s.withTimers v).block.spwm = s.block.spwm := rfl

/-! ### `withFsel` -/

@[simp] theorem State.withFsel_params (s : State) (v : List Word) : (s.withFsel v).params = s.params := rfl
@[simp] theorem State.withFsel_env (s : State) (v : List Word) : (s.withFsel v).env = s.env := rfl
@[simp] theorem State.withFsel_script (s : State) (v : List Word) : (s.withFsel v).script = s.script := rfl
@[simp] theorem State.withFsel_draws (s : State) (v : List Word) : (s.withFsel v).draws = s.draws := rfl
@[simp] theorem State.withFsel_rsp (s : State) (v : List Word) : (s.withFsel v).rsp = s.rsp := rfl
@[simp] theorem State.withFsel_gpioMapped (s : State) (v : List Word) : (s.withFsel v).block.gpioMapped = s.block.gpioMapped := rfl
@[simp] theorem State.withFsel_pwmMapped (s : State) (v : List Word) : (s.withFsel v).block.pwmMapped = s.block.pwmMapped := rfl
@[simp] theorem State.withFsel_halted (s : State) (v : List Word) : (s.withFsel v).block.halted = s.block.halted := rfl
@[simp] theorem State.withFsel_timers (s : State) (v : List Word) : (s.withFsel v).block.timers = s.block.timers := rfl
@[simp] theorem State.withFsel_fsel (s : State) (v : List Word) : (s.withFsel v).block.fsel = v := rfl
@[simp] theorem State.withFsel_out (s : State) (v : List Word) : (s.withFsel v).block.out = s.block.out := rfl
@[simp] theorem State.withFsel_pwmCtl (s : State) (v : List Word) : (s.withFsel v).block.pwmCtl = s.block.pwmCtl := rfl
@[simp] theorem State.withFsel_pwmDiv (s : State) (v : List Word) : (s.withFsel v).block.pwmDiv = s.block.pwmDiv := rfl
@[simp] theorem State.withFsel_pwmRng (s : State) (v : List Word) : (s.withFsel v).block.pwmRng = s.block.pwmRng := rfl
@[simp] theorem State.withFsel_pwmDat (s : State) (v : List Word) : (s.withFsel v).block.pwmDat = s.block.pwmDat := rfl
@[simp] theorem State.withFsel_spwm (s : State) (v : List Word) : (s.withFsel v).block.spwm = s.block.spwm := rfl

/-! ### `withOut` -/

@[simp] theorem State.withOut_params (s : State) (v : List Bool) : (s.withOut v).params = s.params := rfl
@[simp] theorem State.withOut_env (s : State) (v : List Bool) : (s.withOut v).env = s.env := rfl
@[simp] theorem State.withOut_script (s : State) (v : List Bool) : (s.withOut v).script = s.script := rfl
@[simp] theorem State.withOut_draws (s : State) (v : List Bool) : (s.withOut v).draws = s.draws := rfl
@[simp] theorem State.withOut_rsp (s : State) (v : List Bool) : (s.withOut v).rsp = s.rsp := rfl
@[simp] theorem State.withOut_gpioMapped (s : State) (v : List Bool) : (s.withOut v).block.gpioMapped = s.block.gpioMapped := rfl
@[simp] theorem State.withOut_pwmMapped (s : State) (v : List Bool) : (s.withOut v).block.pwmMapped = s.block.pwmMapped := rfl
@[simp] theorem State.withOut_halted (s : State) (v : List Bool) : (s.withOut v).block.halted = s.block.halted := rfl
@[simp] theorem State.withOut_timers (s : State) (v : List Bool) : (s.withOut v).block.timers = s.block.timers := rfl
@[simp] theorem State.withOut_fsel (s : State) (v : List Bool) : (s.withOut v).block.fsel = s.block.fsel := rfl
@[simp] theorem State.withOut_out (s : State) (v : List Bool) : (s.withOut v).block.out = v := rfl
@[simp] theorem State.withOut_pwmCtl (s : State) (v : List Bool) : (s.withOut v).block.pwmCtl = s.block.pwmCtl := rfl
@[simp] theorem State.withOut_pwmDiv (s : State) (v : List Bool) : (s.withOut v).block.pwmDiv = s.block.pwmDiv := rfl
@[simp] theorem State.withOut_pwmRng (s : State) (v : List Bool) : (s.withOut v).block.pwmRng = s.block.pwmRng := rfl
@[simp] theorem State.withOut_pwmDat (s : State) (v : List Bool) : (s.withOut v).block.pwmDat = s.block.pwmDat := rfl
@[simp] theorem State.withOut_spwm (s : State) (v : List Bool) : (s.withOut v).block.spwm = s.block.spwm := rfl

/-! ### `withPwmCtl` -/

@[simp] theorem State.withPwmCtl_params (s : State) (v : Word) : (s.withPwmCtl v).params = s.params := rfl
@[simp] theorem State.withPwmCtl_env (s : State) (v : Word) : (s.withPwmCtl v).env = s.env := rfl
@[simp] theorem State.withPwmCtl_script (s : State) (v : Word) : (s.withPwmCtl v).script = s.script := rfl
@[simp] theorem State.withPwmCtl_draws (s : State) (v : Word) : (s.withPwmCtl v).draws = s.draws := rfl
@[simp] theorem State.withPwmCtl_rsp (s : State) (v : Word) : (s.withPwmCtl v).rsp = s.rsp := rfl
@[simp] theorem State.withPwmCtl_gpioMapped (s : State) (v : Word) : (s.withPwmCtl v).block.gpioMapped = s.block.gpioMapped := rfl
@[simp] theorem State.withPwmCtl_pwmMapped (s : State) (v : Word) : (s.withPwmCtl v).block.pwmMapped = s.block.pwmMapped := rfl
@[simp] theorem State.withPwmCtl_halted (s : State) (v : Word) : (s.withPwmCtl v).block.halted = s.block.halted := rfl
@[simp] theorem State.withPwmCtl_timers (s : State) (v : Word) : (s.withPwmCtl v).block.timers = s.block.timers := rfl
@[simp] theorem State.withPwmCtl_fsel (s : State) (v : Word) : (s.withPwmCtl v).block.fsel = s.block.fsel := rfl
@[simp] theorem State.withPwmCtl_out (s : State) (v : Word) : (s.withPwmCtl v).block.out = s.block.out := rfl
@[simp] theorem State.withPwmCtl_pwmCtl (s : State) (v : Word) : (s.withPwmCtl v).block.pwmCtl = v := rfl
@[simp] theorem State.withPwmCtl_pwmDiv (s : State) (v : Word) : (s.withPwmCtl v).block.pwmDiv = s.block.pwmDiv := rfl
@[simp] theorem State.withPwmCtl_pwmRng (s : State) (v : Word) : (s.withPwmCtl v).block.pwmRng = s.block.pwmRng := rfl
@[simp] theorem State.withPwmCtl_pwmDat (s : State) (v : Word) : (s.withPwmCtl v).block.pwmDat = s.block.pwmDat := rfl
@[simp] theorem State.withPwmCtl_spwm (s : State) (v : Word) : (s.withPwmCtl v).block.spwm = s.block.spwm := rfl

/-! ### `withPwmDiv` -/

@[simp] theorem State.withPwmDiv_params (s : State) (v : List Word) : (s.withPwmDiv v).params = s.params := rfl
@[simp] theorem State.withPwmDiv_env (s : State) (v : List Word) : (s.withPwmDiv v).env = s.env := rfl
@[simp] theorem State.withPwmDiv_script (s : State) (v : List Word) : (s.withPwmDiv v).script = s.script := rfl
@[simp] theorem State.withPwmDiv_draws (s : State) (v : List Word) : (s.withPwmDiv v).draws = s.draws := rfl
@[simp] theorem State.withPwmDiv_rsp (s : State) (v : List Word) : (s.withPwmDiv v).rsp = s.rsp := rfl
@[simp] theorem State.withPwmDiv_gpioMapped (s : State) (v : List Word) : (s.withPwmDiv v).block.gpioMapped = s.block.gpioMapped := rfl
@[simp] theorem State.withPwmDiv_pwmMapped (s : State) (v : List Word) : (s.withPwmDiv v).block.pwmMapped = s.block.pwmMapped := rfl
@[simp] theorem State.withPwmDiv_halted (s : State) (v : List Word) : (s.withPwmDiv v).block.halted = s.block.halted := rfl
@[simp] theorem State.withPwmDiv_timers (s : State) (v : List Word) : (s.withPwmDiv v).block.timers = s.block.timers := rfl
@[simp] theorem State.withPwmDiv_fsel (s : State) (v : List Word) : (s.withPwmDiv v).block.fsel = s.block.fsel := rfl
@[simp] theorem State.withPwmDiv_out (s : State) (v : List Word) : (s.withPwmDiv v).block.out = s.block.out := rfl
@[simp] theorem State.withPwmDiv_pwmCtl (s : State) (v : List Word) : (s.withPwmDiv v).block.pwmCtl = s.block.pwmCtl := rfl
@[simp] theorem State.withPwmDiv_pwmDiv (s : State) (v : List Word) : (s.withPwmDiv v).block.pwmDiv = v := rfl
@[simp] theorem State.withPwmDiv_pwmRng (s : State) (v : List Word) : (s.withPwmDiv v).block.pwmRng = s.block.pwmRng := rfl
@[simp] theorem State.withPwmDiv_pwmDat (s : State) (v : List Word) : (s.withPwmDiv v).block.pwmDat = s.block.pwmDat := rfl
@[simp] theorem State.withPwmDiv_spwm (s : State) (v : List Word) : (s.withPwmDiv v).block.spwm = s.block.spwm := rfl

/-! ### `withPwmRng` -/

@[simp] theorem State.withPwmRng_params (s : State) (v : List Word) : (s.withPwmRng v).params = s.params := rfl
@[simp] theorem State.withPwmRng_env (s : State) (v : List Word) : (s.withPwmRng v).env = s.env := rfl
@[simp] theorem State.withPwmRng_script (s : State) (v : List Word) : (s.withPwmRng v).script = s.script := rfl
@[simp] theorem State.withPwmRng_draws (s : State) (v : List Word) : (s.withPwmRng v).draws = s.draws := rfl
@[simp] theorem State.withPwmRng_rsp (s : State) (v : List Word) : (s.withPwmRng v).rsp = s.rsp := rfl
@[simp] theorem State.withPwmRng_gpioMapped (s : State) (v : List Word) : (s.withPwmRng v).block.gpioMapped = s.block.gpioMapped := rfl
@[simp] theorem State.withPwmRng_pwmMapped (s : State) (v : List Word) : (s.withPwmRng v).block.pwmMapped = s.block.pwmMapped := rfl
@[simp] theorem State.withPwmRng_halted (s : State) (v : List Word) : (s.withPwmRng v).block.halted = s.block.halted := rfl
@[simp] theorem State.withPwmRng_timers (s : State) (v : List Word) : (s.withPwmRng v).block.timers = s.block.timers := rfl
@[simp] theorem State.withPwmRng_fsel (s : State) (v : List Word) : (s.withPwmRng v).block.fsel = s.block.fsel := rfl
@[simp] theorem State.withPwmRng_out (s : State) (v : List Word) : (s.withPwmRng v).block.out = s.block.out := rfl
@[simp] theorem State.withPwmRng_pwmCtl (s : State) (v : List Word) : (s.withPwmRng v).block.pwmCtl = s.block.pwmCtl := rfl
@[simp] theorem State.withPwmRng_pwmDiv (s : State) (v : List Word) : (s.withPwmRng v).block.pwmDiv = s.block.pwmDiv := rfl
@[simp] theorem State.withPwmRng_pwmRng (s : State) (v : List Word) : (s.withPwmRng v).block.pwmRng = v := rfl
@[simp] theorem State.withPwmRng_pwmDat (s : State) (v : List Word) : (s.withPwmRng v).block.pwmDat = s.block.pwmDat := rfl
@[simp] theorem State.withPwmRng_spwm (s : State) (v : List Word) : (s.withPwmRng v).block.spwm = s.block.spwm := rfl

/-! ### `withPwmDat` -/

@[simp] theorem State.withPwmDat_params (s : State) (v : List Word) : (s.withPwmDat v).params = s.params := rfl
@[simp] theorem State.withPwmDat_env (s : State) (v : List Word) : (s.withPwmDat v).env = s.env := rfl
@[simp] theorem State.withPwmDat_script (s : State) (v : List Word) : (s.withPwmDat v).script = s.script := rfl
@[simp] theorem State.withPwmDat_draws (s : State) (v : List Word) : (s.withPwmDat v).draws = s.draws := rfl
@[simp] theorem State.withPwmDat_rsp (s : State) (v : List Word) : (s.withPwmDat v).rsp = s.rsp := rfl
@[simp] theorem State.withPwmDat_gpioMapped (s : State) (v : List Word) : (s.withPwmDat v).block.gpioMapped = s.block.gpioMapped := rfl
@[simp] theorem State.withPwmDat_pwmMapped (s : State) (v : List Word) : (s.withPwmDat v).block.pwmMapped = s.block.pwmMapped := rfl
@[simp] theorem State.withPwmDat_halted (s : State) (v : List Word) : (s.withPwmDat v).block.halted = s.block.halted := rfl
@[simp] theorem State.withPwmDat_timers (s : State) (v : List Word) : (s.withPwmDat v).block.timers = s.block.timers := rfl
@[simp] theorem State.withPwmDat_fsel (s : State) (v : List Word) : (s.withPwmDat v).block.fsel = s.block.fsel := rfl
@[simp] theorem State.withPwmDat_out (s : State) (v : List Word) : (s.withPwmDat v).block.out = s.block.out := rfl
@[simp] theorem State.withPwmDat_pwmCtl (s : State) (v : List Word) : (s.withPwmDat v).block.pwmCtl = s.block.pwmCtl := rfl
@[simp] theorem State.withPwmDat_pwmDiv (s : State) (v : List Word) : (s.withPwmDat v).block.pwmDiv = s.block.pwmDiv := rfl
@[simp] theorem State.withPwmDat_pwmRng (s : State) (v : List Word) : (s.withPwmDat v).block.pwmRng = s.block.pwmRng := rfl
@[simp] theorem State.withPwmDat_pwmDat (s : State) (v : List Word) : (s.withPwmDat v).block.pwmDat = v := rfl
@[simp] theorem State.withPwmDat_spwm (s : State) (v : List Word) : (s.withPwmDat v).block.spwm = s.block.spwm := rfl

/-! ### `withSpwm` -/

@[simp] theorem State.withSpwm_params (s : State) (v : List Channel) : (s.withSpwm v).params = s.params := rfl
@[simp] theorem State.withSpwm_env (s : State) (v : List Channel) : (s.withSpwm v).env = s.env := rfl
@[simp] theorem State.withSpwm_script (s : State) (v : List Channel) : (s.withSpwm v).script = s.script := rfl
@[simp] theorem State.withSpwm_draws (s : State) (v : List Channel) : (s.withSpwm v).draws = s.draws := rfl
@[simp] theorem State.withSpwm_rsp (s : State) (v : List Channel) : (s.withSpwm v).rsp = s.rsp := rfl
@[simp] theorem State.withSpwm_gpioMapped (s : State) (v : List Channel) : (s.withSpwm v).block.gpioMapped = s.block.gpioMapped := rfl
@[simp] theorem State.withSpwm_pwmMapped (s : State) (v : List Channel) : (s.withSpwm v).block.pwmMapped = s.block.pwmMapped := rfl
@[simp] theorem State.withSpwm_halted (s : State) (v : List Channel) : (s.withSpwm v).block.halted = s.block.halted := rfl
@[simp] theorem State.withSpwm_timers (s : State) (v : List Channel) : (s.withSpwm v).block.timers = s.block.timers := rfl
@[simp] theorem State.withSpwm_fsel (s : State) (v : List Channel) : (s.withSpwm v).block.fsel = s.block.fsel := rfl
@[simp] theorem State.withSpwm_out (s : State) (v : List Channel) : (s.withSpwm v).block.out = s.block.out := rfl
@[simp] theorem State.withSpwm_pwmCtl (s : State) (v : List Channel) : (s.withSpwm v).block.pwmCtl = s.block.pwmCtl := rfl
@[simp] theorem State.withSpwm_pwmDiv (s : State) (v : List Channel) : (s.withSpwm v).block.pwmDiv = s.block.pwmDiv := rfl
@[simp] theorem State.withSpwm_pwmRng (s : State) (v : List Channel) : (s.withSpwm v).block.pwmRng = s.block.pwmRng := rfl
@[simp] theorem State.withSpwm_pwmDat (s : State) (v : List Channel) : (s.withSpwm v).block.pwmDat = s.block.pwmDat := rfl
@[simp] theorem State.withSpwm_spwm (s : State) (v : List Channel) : (s.withSpwm v).block.spwm = v := rfl

/-! ### `withBlock` -/

@[simp] theorem State.withBlock_params (s : State) (v : Block) : (s.withBlock v).params = s.params := rfl
@[simp] theorem State.withBlock_block (s : State) (v : Block) : (s.withBlock v).block = v := rfl
@[simp] theorem State.withBlock_env (s : State) (v : Block) : (s.withBlock v).env = s.env := rfl
@[simp] theorem State.withBlock_script (s : State) (v : Block) : (s.withBlock v).script = s.script := rfl
@[simp] theorem State.withBlock_draws (s : State) (v : Block) : (s.withBlock v).draws = s.draws := rfl
@[simp] theorem State.withBlock_rsp (s : State) (v : Block) : (s.withBlock v).rsp = s.rsp := rfl

/-! ### `withEnv` -/

@[simp] theorem State.withEnv_params (s : State) (v : Env) : (s.withEnv v).params = s.params := rfl
@[simp] theorem State.withEnv_block (s : State) (v : Env) : (s.withEnv v).block = s.block := rfl
@[simp] theorem State.withEnv_env (s : State) (v : Env) : (s.withEnv v).env = v := rfl
@[simp] theorem State.withEnv_script (s : State) (v : Env) : (s.withEnv v).script = s.script := rfl
@[simp] theorem State.withEnv_draws (s : State) (v : Env) : (s.withEnv v).draws = s.draws := rfl
@[simp] theorem State.withEnv_rsp (s : State) (v : Env) : (s.withEnv v).rsp = s.rsp := rfl

/-! ### `withScript` -/

@[simp] theorem State.withScript_params (s : State) (v : List Event) : (s.withScript v).params = s.params := rfl
@[simp] theorem State.withScript_block (s : State) (v : List Event) : (s.withScript v).block = s.block := rfl
@[simp] theorem State.withScript_env (s : State) (v : List Event) : (s.withScript v).env = s.env := rfl
@[simp] theorem State.withScript_script (s : State) (v : List Event) : (s.withScript v).script = v := rfl
@[simp] theorem State.withScript_draws (s : State) (v : List Event) : (s.withScript v).draws = s.draws := rfl
@[simp] theorem State.withScript_rsp (s : State) (v : List Event) : (s.withScript v).rsp = s.rsp := rfl

/-! ### `withRsp` -/

@[simp] theorem State.withRsp_params (s : State) (v : Option Response) : (s.withRsp v).params = s.params := rfl
@[simp] theorem State.withRsp_block (s : State) (v : Option Response) : (s.withRsp v).block = s.block := rfl
@[simp] theorem State.withRsp_env (s : State) (v : Option Response) : (s.withRsp v).env = s.env := rfl
@[simp] theorem State.withRsp_script (s : State) (v : Option Response) : (s.withRsp v).script = s.script := rfl
@[simp] theorem State.withRsp_draws (s : State) (v : Option Response) : (s.withRsp v).draws = s.draws := rfl
@[simp] theorem State.withRsp_rsp (s : State) (v : Option Response) : (s.withRsp v).rsp = v := rfl

/-! ### The ends of a command, and what comes from outside -/

@[simp] theorem State.countDraw_params (s : State) : (s.countDraw).params = s.params := rfl
@[simp] theorem State.countDraw_block (s : State) : (s.countDraw).block = s.block := rfl
@[simp] theorem State.countDraw_env (s : State) : (s.countDraw).env = s.env := rfl
@[simp] theorem State.countDraw_script (s : State) : (s.countDraw).script = s.script := rfl
@[simp] theorem State.countDraw_draws (s : State) : (s.countDraw).draws = s.draws + 1 := rfl
@[simp] theorem State.countDraw_rsp (s : State) : (s.countDraw).rsp = s.rsp := rfl
@[simp] theorem State.respond_params (s : State) (r : Response) : (s.respond r).params = s.params := rfl
@[simp] theorem State.respond_block (s : State) (r : Response) : (s.respond r).block = s.block := rfl
@[simp] theorem State.respond_env (s : State) (r : Response) : (s.respond r).env = s.env := rfl
@[simp] theorem State.respond_script (s : State) (r : Response) : (s.respond r).script = s.script := rfl
@[simp] theorem State.respond_draws (s : State) (r : Response) : (s.respond r).draws = s.draws + 1 := rfl
@[simp] theorem State.respond_rsp (s : State) (r : Response) : (s.respond r).rsp = some r := rfl
@[simp] theorem State.answer_params (s : State) (d : Data) : (s.answer d).params = s.params := rfl
@[simp] theorem State.answer_block (s : State) (d : Data) : (s.answer d).block = s.block := rfl
@[simp] theorem State.answer_env (s : State) (d : Data) : (s.answer d).env = s.env := rfl
@[simp] theorem State.answer_script (s : State) (d : Data) : (s.answer d).script = s.script := rfl
@[simp] theorem State.answer_draws (s : State) (d : Data) : (s.answer d).draws = s.draws + 1 := rfl
@[simp] theorem State.answer_rsp (s : State) (d : Data) : (s.answer d).rsp = some ⟨0#8, d⟩ := rfl
@[simp] theorem State.raise_params (s : State) (e : ErrorKind) : (s.raise e).params = s.params := rfl
@[simp] theorem State.raise_block (s : State) (e : ErrorKind) : (s.raise e).block = s.block := rfl
@[simp] theorem State.raise_env (s : State) (e : ErrorKind) : (s.raise e).env = s.env := rfl
@[simp] theorem State.raise_script (s : State) (e : ErrorKind) : (s.raise e).script = s.script := rfl
@[simp] theorem State.raise_draws (s : State) (e : ErrorKind) : (s.raise e).draws = s.draws + 1 := rfl
@[simp] theorem State.raise_rsp (s : State) (e : ErrorKind) : (s.raise e).rsp = some ⟨e.code, 0#64⟩ := rfl
@[simp] theorem State.halt_params (s : State) : (s.halt).params = s.params := rfl
@[simp] theorem State.halt_block (s : State) : (s.halt).block = { s.block with halted := true } := rfl
@[simp] theorem State.halt_env (s : State) : (s.halt).env = s.env := rfl
@[simp] theorem State.halt_script (s : State) : (s.halt).script = s.script := rfl
@[simp] theorem State.halt_draws (s : State) : (s.halt).draws = s.draws + 1 := rfl
@[simp] theorem State.halt_rsp (s : State) : (s.halt).rsp = none := rfl
@[simp] theorem State.silent_params (s : State) : (s.silent).params = s.params := rfl
@[simp] theorem State.silent_block (s : State) : (s.silent).block = s.block := rfl
@[simp] theorem State.silent_env (s : State) : (s.silent).env = s.env := rfl
@[simp] theorem State.silent_script (s : State) : (s.silent).script = s.script := rfl
@[simp] theorem State.silent_draws (s : State) : (s.silent).draws = s.draws := rfl
@[simp] theorem State.silent_rsp (s : State) : (s.silent).rsp = none := rfl
@[simp] theorem changeInputs_params (s : State) (e : Env) : (changeInputs s e).params = s.params := rfl
@[simp] theorem changeInputs_block (s : State) (e : Env) : (changeInputs s e).block = s.block := rfl
@[simp] theorem changeInputs_env (s : State) (e : Env) : (changeInputs s e).env = e := rfl
@[simp] theorem changeInputs_script (s : State) (e : Env) : (changeInputs s e).script = s.script := rfl
@[simp] theorem changeInputs_draws (s : State) (e : Env) : (changeInputs s e).draws = s.draws := rfl
@[simp] theorem changeInputs_rsp (s : State) (e : Env) : (changeInputs s e).rsp = none := rfl
@[simp] theorem takeReset_params (s : State) : (takeReset s).params = s.params := rfl
@[simp] theorem takeReset_block (s : State) : (takeReset s).block = resetBlock s.draws s.block := rfl
@[simp] theorem takeReset_env (s : State) : (takeReset s).env = s.env := rfl
@[simp] theorem takeReset_script (s : State) : (takeReset s).script = s.script := rfl
@[simp] theorem takeReset_draws (s : State) : (takeReset s).draws = s.draws + 1 := rfl
@[simp] theorem takeReset_rsp (s : State) : (takeReset s).rsp = none := rfl
@[simp] theorem presentFrame_params (s : State) (F : Frame) : (presentFrame s F).params = s.params := rfl
@[simp] theorem presentFrame_block (s : State) (F : Frame) : (presentFrame s F).block = s.block := rfl
@[simp] theorem presentFrame_env (s : State) (F : Frame) : (presentFrame s F).env = s.env := rfl
@[simp] theorem presentFrame_script (s : State) (F : Frame) : (presentFrame s F).script = .command F :: s.script := rfl
@[simp] theorem presentFrame_draws (s : State) (F : Frame) : (presentFrame s F).draws = s.draws := rfl
@[simp] theorem presentFrame_rsp (s : State) (F : Frame) : (presentFrame s F).rsp = s.rsp := rfl

/-! ### Well-known equalities of updates -/

@[simp] theorem State.withGpioMapped_self (s : State) : s.withGpioMapped s.block.gpioMapped = s := rfl
@[simp] theorem State.withPwmMapped_self (s : State) : s.withPwmMapped s.block.pwmMapped = s := rfl
@[simp] theorem State.withHalted_self (s : State) : s.withHalted s.block.halted = s := rfl
@[simp] theorem State.withTimers_self (s : State) : s.withTimers s.block.timers = s := rfl
@[simp] theorem State.withFsel_self (s : State) : s.withFsel s.block.fsel = s := rfl
@[simp] theorem State.withOut_self (s : State) : s.withOut s.block.out = s := rfl
@[simp] theorem State.withPwmCtl_self (s : State) : s.withPwmCtl s.block.pwmCtl = s := rfl
@[simp] theorem State.withPwmDiv_self (s : State) : s.withPwmDiv s.block.pwmDiv = s := rfl
@[simp] theorem State.withPwmRng_self (s : State) : s.withPwmRng s.block.pwmRng = s := rfl
@[simp] theorem State.withPwmDat_self (s : State) : s.withPwmDat s.block.pwmDat = s := rfl
@[simp] theorem State.withSpwm_self (s : State) : s.withSpwm s.block.spwm = s := rfl

end Sys2Proof.Machine
end

