-- ==== Sys2Proof/Laws/Bus.lean ====
section
/-! SUPPORT. What the operations on the lines of a register word do, bit by bit and as whole words. -/

namespace Sys2Proof.Machine

@[simp] theorem BusWord.ofWord_apply (v : Word) (i : Nat) : BusWord.ofWord v i = v.getLsbD i := rfl
@[simp] theorem BusWord.andNot_apply (a b : BusWord) (i : Nat) : a.andNot b i = (a i && !b i) := rfl
@[simp] theorem BusWord.or_apply (a b : BusWord) (i : Nat) : a.or b i = (a i || b i) := rfl
@[simp] theorem BusWord.bit_apply (o i : Nat) : BusWord.bit o i = decide (i = o) := rfl
@[simp] theorem BusWord.fieldMask_apply (w o i : Nat) : BusWord.fieldMask w o i = decide (o ≤ i ∧ i < o + w) := rfl
@[simp] theorem BusWord.shifted_apply (v : Word) (o i : Nat) :
    BusWord.shifted v o i = (decide (o ≤ i) && v.getLsbD (i - o)) := rfl

theorem BusWord.toNat_testBit (v : BusWord) (off n i : Nat) :
    (v.toNat off n).testBit i = (decide (i < n) && v (off + i)) := by
  induction n generalizing off i with
  | zero => simp [BusWord.toNat]
  | succ n ih =>
    rw [BusWord.toNat]
    cases i with
    | zero => cases v off <;> simp [Nat.testBit_zero, Nat.add_mod]
    | succ i =>
      have h : ((v off).toNat + 2 * BusWord.toNat v (off + 1) n) / 2 = BusWord.toNat v (off + 1) n := by
        cases v off <;> (simp; try omega)
      rw [Nat.testBit_succ, h, ih]
      simp [Nat.add_assoc, Nat.add_comm 1 i]

/-- A field's bits are the lines it is cut from. -/
theorem BusWord.field_getLsbD (v : BusWord) (off n i : Nat) :
    (v.field off n).getLsbD i = (decide (i < 32 ∧ i < n) && v (off + i)) := by
  rw [BusWord.field, BitVec.getLsbD_ofNat, BusWord.toNat_testBit, Bool.decide_and, Bool.and_assoc]

/-- Fields cut from lines that agree are equal. -/
theorem BusWord.field_congr {v w : BusWord} {off n : Nat} (h : ∀ i, i < n → v (off + i) = w (off + i)) :
    v.field off n = w.field off n := by
  apply BitVec.eq_of_getLsbD_eq
  intro i _
  simp only [BusWord.field_getLsbD]
  by_cases hi : i < n
  · rw [h i hi]
  · simp [hi]

/-- A field of `n` lines is a number of `n` bits. -/
theorem BusWord.toNat_lt (v : BusWord) (off n : Nat) : v.toNat off n < 2 ^ n := by
  induction n generalizing off with
  | zero => simp [BusWord.toNat]
  | succ n ih =>
    have := ih (off + 1)
    rw [BusWord.toNat, Nat.pow_succ]
    cases v off <;> simp <;> omega

theorem BusWord.field_toNat_lt (v : BusWord) (off n : Nat) : (v.field off n).toNat < 2 ^ n :=
  lt_of_le_of_lt (by simpa [BusWord.field] using Nat.mod_le _ _) (v.toNat_lt off n)

/-- A word of fewer than `n` significant bits has no bit from `n` on. -/
theorem getLsbD_of_toNat_lt {f : Word} {n i : Nat} (h : f.toNat < 2 ^ n) (hi : n ≤ i) : f.getLsbD i = false := by
  rw [BitVec.getLsbD]
  exact Nat.testBit_lt_two_pow (lt_of_lt_of_le h (Nat.pow_le_pow_right (by omega) hi))

/-- A field all of whose lines carry the bits of `f` is `f`. -/
theorem BusWord.field_eq {v : BusWord} {off n : Nat} {f : Word} (hf : f.toNat < 2 ^ n)
    (h : ∀ i, i < n → v (off + i) = f.getLsbD i) : v.field off n = f := by
  apply BitVec.eq_of_getLsbD_eq
  intro i hi
  rw [BusWord.field_getLsbD]
  by_cases hn : i < n
  · simp [hi, hn, h i hn]
  · simp [hn, getLsbD_of_toNat_lt hf (by omega : n ≤ i)]

@[simp] theorem BusWord.word_ofWord (v : Word) : (BusWord.ofWord v).word = v :=
  BusWord.field_eq v.isLt (by simp)

theorem BusWord.word_getLsbD (v : BusWord) (i : Nat) : v.word.getLsbD i = (decide (i < 32) && v i) := by
  simp [BusWord.word, BusWord.field_getLsbD]

/-- Setting one bit of a control word. -/
theorem BusWord.word_or_bit (v : Word) (b : Nat) :
    ((BusWord.ofWord v).or (BusWord.bit b)).word = v ||| BitVec.twoPow 32 b := by
  apply BitVec.eq_of_getLsbD_eq
  intro i hi
  rw [BusWord.word_getLsbD, BitVec.getLsbD_or, BitVec.getLsbD_twoPow]
  by_cases h : i = b
  · subst h; simp [hi]
  · simp [hi, h, Ne.symm h]

/-- Clearing one bit of a control word. -/
theorem BusWord.word_andNot_bit (v : Word) (b : Nat) :
    ((BusWord.ofWord v).andNot (BusWord.bit b)).word = v &&& ~~~ BitVec.twoPow 32 b := by
  apply BitVec.eq_of_getLsbD_eq
  intro i hi
  rw [BusWord.word_getLsbD, BitVec.getLsbD_and, BitVec.getLsbD_not, BitVec.getLsbD_twoPow]
  by_cases h : i = b
  · subst h; simp [hi]
  · simp [hi, h, Ne.symm h]

end Sys2Proof.Machine
end

