-- ==== Sys2Proof/Laws/Encoding.lean ====
section
/-! SUPPORT. The fields of a frame built from fields, and masking field by field. -/

namespace Sys2Proof

/-- The bits of a frame built from fields, by position (30_encoding.md R60). -/
theorem Frame.getLsbD_ofFields (op a b c : BitVec 8) (d : BitVec 64) (i : Nat) :
    (Frame.ofFields op a b c d).getLsbD i =
      if i < 64 then d.getLsbD i else if i < 72 then c.getLsbD (i - 64) else if i < 80 then b.getLsbD (i - 72)
      else if i < 88 then a.getLsbD (i - 80) else op.getLsbD (i - 88) := by
  have h : (Frame.ofFields op a b c d).getLsbD i = (op ++ a ++ b ++ c ++ d : BitVec (8 + 8 + 8 + 8 + 64)).getLsbD i := rfl
  rw [h]
  simp only [BitVec.getLsbD_append]
  have h₁ : i - 64 - 8 = i - 72 := by omega
  have h₂ : i - 72 - 8 = i - 80 := by omega
  have h₃ : i - 80 - 8 = i - 88 := by omega
  have h₄ : (i - 64 < 8) = (i < 64 ∨ i < 72) := by simp; omega
  have h₅ : (i - 72 < 8) = (i < 72 ∨ i < 80) := by simp; omega
  have h₆ : (i - 80 < 8) = (i < 80 ∨ i < 88) := by simp; omega
  rw [h₁, h₂, h₃]
  grind

/-- The bits of the data field of formats IFD and IPFD. -/
theorem Frame.getLsbD_freqDuty (freq : BitVec 32) (duty : BitVec 17) (i : Nat) :
    (Frame.freqDuty freq duty).getLsbD i = if i < 32 then freq.getLsbD i else duty.getLsbD (i - 32) := by
  have h : (Frame.freqDuty freq duty).getLsbD i = (0#15 ++ duty ++ freq : BitVec (15 + 17 + 32)).getLsbD i := rfl
  rw [h]
  simp only [BitVec.getLsbD_append]
  by_cases h₁ : i < 32
  · simp [h₁]
  · by_cases h₂ : i - 32 < 17
    · simp [h₁, h₂]
    · simp [h₁, h₂, BitVec.getLsbD_of_ge duty (i - 32) (by omega)]

@[simp] theorem Frame.op_ofFields (op a b c : BitVec 8) (d : BitVec 64) : (Frame.ofFields op a b c d).op = op := by
  apply BitVec.eq_of_getLsbD_eq
  intro i hi
  rw [Frame.op, BitVec.getLsbD_extractLsb', Frame.getLsbD_ofFields]
  simp [hi]
  grind

@[simp] theorem Frame.a_ofFields (op a b c : BitVec 8) (d : BitVec 64) : (Frame.ofFields op a b c d).a = a := by
  apply BitVec.eq_of_getLsbD_eq
  intro i hi
  rw [Frame.a, BitVec.getLsbD_extractLsb', Frame.getLsbD_ofFields]
  simp [hi]
  grind

@[simp] theorem Frame.b_ofFields (op a b c : BitVec 8) (d : BitVec 64) : (Frame.ofFields op a b c d).b = b := by
  apply BitVec.eq_of_getLsbD_eq
  intro i hi
  rw [Frame.b, BitVec.getLsbD_extractLsb', Frame.getLsbD_ofFields]
  simp [hi]
  grind

@[simp] theorem Frame.c_ofFields (op a b c : BitVec 8) (d : BitVec 64) : (Frame.ofFields op a b c d).c = c := by
  apply BitVec.eq_of_getLsbD_eq
  intro i hi
  rw [Frame.c, BitVec.getLsbD_extractLsb', Frame.getLsbD_ofFields]
  simp [hi]
  grind

@[simp] theorem Frame.data_ofFields (op a b c : BitVec 8) (d : BitVec 64) : (Frame.ofFields op a b c d).data = d := by
  apply BitVec.eq_of_getLsbD_eq
  intro i hi
  rw [Frame.data, BitVec.getLsbD_extractLsb', Frame.getLsbD_ofFields]
  simp [hi]

/-- A frame is its fields. -/
theorem Frame.ofFields_fields (F : Frame) : Frame.ofFields F.op F.a F.b F.c F.data = F := by
  apply BitVec.eq_of_getLsbD_eq
  intro i hi
  rw [Frame.getLsbD_ofFields]
  simp only [Frame.op, Frame.a, Frame.b, Frame.c, Frame.data, BitVec.getLsbD_extractLsb']
  grind

/-- A mask works field by field. -/
theorem Frame.ofFields_and (op a b c op' a' b' c' : BitVec 8) (d d' : BitVec 64) :
    Frame.ofFields op a b c d &&& Frame.ofFields op' a' b' c' d' =
      Frame.ofFields (op &&& op') (a &&& a') (b &&& b') (c &&& c') (d &&& d') := by
  apply BitVec.eq_of_getLsbD_eq
  intro i hi
  simp only [BitVec.getLsbD_and, Frame.getLsbD_ofFields]
  grind

/-- Frames built from fields are equal exactly when the fields are. -/
theorem Frame.ofFields_inj (op a b c op' a' b' c' : BitVec 8) (d d' : BitVec 64) :
    Frame.ofFields op a b c d = Frame.ofFields op' a' b' c' d' ↔ op = op' ∧ a = a' ∧ b = b' ∧ c = c' ∧ d = d' := by
  constructor
  · intro h
    exact ⟨by simpa using congrArg Frame.op h, by simpa using congrArg Frame.a h, by simpa using congrArg Frame.b h,
      by simpa using congrArg Frame.c h, by simpa using congrArg Frame.data h⟩
  · rintro ⟨rfl, rfl, rfl, rfl, rfl⟩
    rfl

@[simp] theorem Frame.freq_freqDuty (op a b c : BitVec 8) (freq : BitVec 32) (duty : BitVec 17) :
    (Frame.ofFields op a b c (Frame.freqDuty freq duty)).freq = freq := by
  apply BitVec.eq_of_getLsbD_eq
  intro i hi
  rw [Frame.freq, Frame.data_ofFields, BitVec.getLsbD_extractLsb', Frame.getLsbD_freqDuty]
  simp [hi]

@[simp] theorem Frame.duty_freqDuty (op a b c : BitVec 8) (freq : BitVec 32) (duty : BitVec 17) :
    (Frame.ofFields op a b c (Frame.freqDuty freq duty)).duty = duty := by
  apply BitVec.eq_of_getLsbD_eq
  intro i hi
  rw [Frame.duty, Frame.data_ofFields, BitVec.getLsbD_extractLsb', Frame.getLsbD_freqDuty]
  simp [hi]

@[simp] theorem Mode.ofBit_toBit (m : Mode) : Mode.ofBit m.toBit = m := by cases m <;> rfl
@[simp] theorem Mode.toBit_ofBit (b : Bool) : (Mode.ofBit b).toBit = b := by cases b <;> rfl
@[simp] theorem Level.ofBit_toBit (l : Level) : Level.ofBit l.toBit = l := by cases l <;> rfl
@[simp] theorem Level.toBit_ofBit (b : Bool) : (Level.ofBit b).toBit = b := by cases b <;> rfl
@[simp] theorem Frame.bitField_getElem_zero (b : Bool) : (Frame.bitField b)[0] = b := by cases b <;> decide

/-- The unused bits of a mode or level field are zero. -/
theorem Frame.bitField_and (b : Bool) : Frame.bitField b &&& 0xFE#8 = 0#8 := by cases b <;> rfl

/-- The unused bits above the duty field are zero. -/
theorem Frame.freqDuty_and (freq : BitVec 32) (duty : BitVec 17) :
    Frame.freqDuty freq duty &&& 0xFFFE000000000000#64 = 0#64 := by
  apply BitVec.eq_of_getLsbD_eq
  intro i hi
  rw [BitVec.getLsbD_and, Frame.getLsbD_freqDuty]
  by_cases h : i < 49
  · have : (0xFFFE000000000000#64).getLsbD i = false := by
      interval_cases i <;> rfl
    simp [this]
  · simp [show ¬ i < 32 by omega, BitVec.getLsbD_of_ge duty (i - 32) (by omega)]

/-- When a row covers a frame built from fields, its mask and pattern given by fields. -/
theorem OpcodeRow.covers_ofFields {r : OpcodeRow} {mo ma mb mc po : BitVec 8} {md : BitVec 64}
    (hm : r.mask = Frame.ofFields mo ma mb mc md) (hp : r.pattern = Frame.ofFields po 0 0 0 0)
    (op a b c : BitVec 8) (d : BitVec 64) :
    r.covers (Frame.ofFields op a b c d) = true ↔
      op &&& mo = po ∧ a &&& ma = 0 ∧ b &&& mb = 0 ∧ c &&& mc = 0 ∧ d &&& md = 0 := by
  rw [OpcodeRow.covers, hm, hp, Frame.ofFields_and, beq_iff_eq, Frame.ofFields_inj]

end Sys2Proof
end

