-- ==== Sys2Proof/Laws/Ops.lean ====
section
/-! SUPPORT. What each shared operation can do, said once: the checks, the bank accesses, `SetFsel`, `DigitalWrite` and
the shell of a command. Later proofs cite these and unfold none of them. -/

namespace Sys2Proof.Machine

/-! ### Sequencing and checks -/

@[simp] theorem act_bind_ok {α β : Type} (x : α) (f : α → Act β) : (Except.ok x : Act α) >>= f = f x := rfl
@[simp] theorem act_bind_error {α β : Type} (e : Stop) (f : α → Act β) :
    (Except.error e : Act α) >>= f = Except.error e := rfl
@[simp] theorem act_pure {α : Type} (x : α) : (pure x : Act α) = Except.ok x := rfl

@[simp] theorem require_true (e : ErrorKind) : require true e = .ok () := rfl
@[simp] theorem require_false (e : ErrorKind) : require false e = .error (.raise e) := rfl
@[simp] theorem present_some {α : Type} (x : α) : present (some x) = .ok x := rfl
@[simp] theorem present_none {α : Type} : present (none : Option α) = .error (.fault .noSuchRegister) := rfl

theorem require_ok {b : Bool} {e : ErrorKind} (h : b = true) : require b e = .ok () := by rw [h]; rfl
theorem require_error {b : Bool} {e : ErrorKind} (h : b = false) : require b e = .error (.raise e) := by rw [h]; rfl

theorem requireIndex_ok {i : BitVec 8} {n : Nat} (h : i.toNat < n) : requireIndex i n = .ok () :=
  require_ok (by simpa using h)
theorem requireIndex_error {i : BitVec 8} {n : Nat} (h : ¬ i.toNat < n) :
    requireIndex i n = .error (.raise .illegalCommand) := require_error (by simpa using h)

theorem requireGpio_ok {s : State} (h : s.block.gpioMapped = true) : requireGpio s = .ok () := require_ok h
theorem requireGpio_error {s : State} (h : s.block.gpioMapped = false) :
    requireGpio s = .error (.raise .notInitialized) := require_error h
theorem requirePwm_ok {s : State} (h : s.block.pwmMapped = true) : requirePwm s = .ok () := require_ok h
theorem requirePwm_error {s : State} (h : s.block.pwmMapped = false) :
    requirePwm s = .error (.raise .notInitialized) := require_error h

theorem requirePin_ok {s : State} {p : BitVec 8} (h : p.toNat < s.params.npins) : requirePin s p = .ok () :=
  require_ok (by simpa using h)
theorem requirePin_error {s : State} {p : BitVec 8} (h : ¬ p.toNat < s.params.npins) :
    requirePin s p = .error (.raise .invalidPin) := require_error (by simpa using h)

theorem sampleClock_ok {s : State} (h : s.env.clockOk = true) : sampleClock s = .ok s.env.nowMs := by
  rw [sampleClock, h]; rfl
theorem sampleClock_halt {s : State} (h : s.env.clockOk = false) : sampleClock s = .error .halt := by
  rw [sampleClock, h]; rfl

/-- What a check can answer. -/
theorem require_cases (b : Bool) (e : ErrorKind) :
    (b = true ∧ require b e = .ok ()) ∨ (b = false ∧ require b e = .error (.raise e)) := by
  cases b <;> simp

/-! ### Time (40_clock_timer.md R84) -/

theorem reached_eq_true {now t : Time} : reached now t = true ↔ (now - t).toNat < 2 ^ 63 := by
  rw [reached, decide_eq_true_eq]; rfl
theorem reached_eq_false {now t : Time} : reached now t = false ↔ 2 ^ 63 ≤ (now - t).toNat := by
  rw [reached, decide_eq_false_iff_not, Nat.not_lt]; rfl

/-! ### Bank accesses -/

theorem access_ok {s : State} {a : RegAddr} (hm : bankMapped s a = true) (hr : hasRegister s.params a = true) :
    access s a = .ok () := by rw [access, hm, hr]; rfl

theorem memRead_ok {s : State} {a : RegAddr} (hm : bankMapped s a = true) (hr : hasRegister s.params a = true) :
    memRead s a = .ok (readLines s a) := by rw [memRead, access_ok hm hr]; rfl

theorem memWrite_ok {s : State} {a : RegAddr} {v : BusWord} (hm : bankMapped s a = true)
    (hr : hasRegister s.params a = true) : memWrite s a v = .ok (writeLines s a v) := by
  rw [memWrite, access_ok hm hr]; rfl

/-- An access never raises an error and never halts: it is performed, faults, or is refused. -/
theorem access_cases (s : State) (a : RegAddr) :
    (bankMapped s a = true ∧ hasRegister s.params a = true ∧ access s a = .ok ()) ∨
    (hasRegister s.params a = false ∧ access s a = .error (.fault .noSuchRegister)) ∨
    (bankMapped s a = false ∧ access s a = .error (.refuse .unmappedBank)) := by
  rw [access]
  cases bankMapped s a <;> cases hasRegister s.params a <;> simp

/-- All a read can do: answer the lines, or stop the model. -/
theorem memRead_cases (s : State) (a : RegAddr) :
    memRead s a = .ok (readLines s a) ∨ memRead s a = .error (.fault .noSuchRegister) ∨
    memRead s a = .error (.refuse .unmappedBank) := by
  rcases access_cases s a with ⟨-, -, h⟩ | ⟨-, h⟩ | ⟨-, h⟩ <;> simp [memRead, h]

/-- All a write can do: store the lines, or stop the model. -/
theorem memWrite_cases (s : State) (a : RegAddr) (v : BusWord) :
    memWrite s a v = .ok (writeLines s a v) ∨ memWrite s a v = .error (.fault .noSuchRegister) ∨
    memWrite s a v = .error (.refuse .unmappedBank) := by
  rcases access_cases s a with ⟨-, -, h⟩ | ⟨-, h⟩ | ⟨-, h⟩ <;> simp [memWrite, h]

/-! ### Where a pin's field and bit lie (41_gpio.md R104) -/

theorem lt_ceil_div {p n k : Nat} (hk : 1 ≤ k) (h : p < n) : p / k < (n + k - 1) / k := by
  rw [Nat.div_lt_iff_lt_mul (by omega)]
  have h₁ := Nat.div_add_mod (n + k - 1) k
  have h₂ := Nat.mod_lt (n + k - 1) (show k > 0 by omega)
  rw [Nat.mul_comm] at h₁
  omega

theorem hasRegister_fsel {P : Params} {p : Nat} (hk : 1 ≤ P.fselPerWord) (h : p < P.npins) :
    hasRegister P (.fsel (fselWord P p)) = true :=
  decide_eq_true (lt_ceil_div hk h)

theorem levelWord_lt {P : Params} {p : Nat} (hk : 1 ≤ P.levelPerWord) (h : p < P.npins) :
    levelWord P p < P.nlev :=
  lt_ceil_div hk h

/-- Bit `j` of pin `p`'s field belongs to pin `p`. -/
theorem fselOwner_fselOffset {P : Params} {p j : Nat} (hk : 1 ≤ P.fselPerWord) (hj : j < P.fselBits) :
    fselOwner P (fselWord P p) (fselOffset P p + j) = some (p, j) := by
  have hm := Nat.mod_lt p (show P.fselPerWord > 0 by omega)
  have hlt : p % P.fselPerWord * P.fselBits + j < P.fselPerWord * P.fselBits := by
    calc p % P.fselPerWord * P.fselBits + j < (p % P.fselPerWord + 1) * P.fselBits := by
          rw [Nat.add_mul]; omega
      _ ≤ P.fselPerWord * P.fselBits := Nat.mul_le_mul_right _ hm
  have hd : (p % P.fselPerWord * P.fselBits + j) / P.fselBits = p % P.fselPerWord := by
    rw [Nat.mul_comm, Nat.mul_add_div (by omega), Nat.div_eq_of_lt hj, Nat.add_zero]
  have hmod : (p % P.fselPerWord * P.fselBits + j) % P.fselBits = j := by
    rw [Nat.mul_comm, Nat.mul_add_mod, Nat.mod_eq_of_lt hj]
  rw [fselOwner, fselOffset, fselWord, if_pos hlt, hd, hmod, Nat.mul_comm, Nat.div_add_mod]

/-- Reading a pin's word shows the pin's field at its offset (20_memory.md R41). -/
theorem readLines_fsel {s : State} {p j : Nat} {f : Word} (hk : 1 ≤ s.params.fselPerWord) (hj : j < s.params.fselBits)
    (hf : s.block.fsel[p]? = some f) :
    readLines s (.fsel (fselWord s.params p)) (fselOffset s.params p + j) = f.getLsbD j := by
  simp only [readLines, fselOwner_fselOffset hk hj, fileBit, hf]

/-- The field of a pin, cut from its word, is the pin's function-select code. -/
theorem readField_fsel {s : State} {p : Nat} {f : Word} (hk : 1 ≤ s.params.fselPerWord)
    (hf : s.block.fsel[p]? = some f) (hfit : f.toNat < 2 ^ s.params.fselBits) :
    (readLines s (.fsel (fselWord s.params p))).field (fselOffset s.params p) s.params.fselBits = f :=
  BusWord.field_eq hfit fun _ hj => readLines_fsel hk hj hf

/-- The level bit of a pin, cut from its word, is `lev(p)` (20_memory.md R45). -/
theorem readLines_lev {s : State} {p : Nat} (hk : 1 ≤ s.params.levelPerWord) :
    readLines s (.lev (levelWord s.params p)) (levelOffset s.params p) =
      pinLevel s p (draw s (.lev (levelWord s.params p)) (levelOffset s.params p)) := by
  have hm := Nat.mod_lt p (show s.params.levelPerWord > 0 by omega)
  have ho : levelOwner s.params (levelWord s.params p) (levelOffset s.params p) = some p := by
    rw [levelOwner, levelOffset, levelWord, if_pos hm, Nat.mul_comm, Nat.div_add_mod]
  simp only [readLines, ho]

/-- `lev(p)` by the pin's function (10_state.md R18). -/
theorem pinLevel_eq {s : State} {p : Nat} {f : Word} {o : Bool} (d : Bool) (hf : s.block.fsel[p]? = some f)
    (ho : s.block.out[p]? = some o) :
    pinLevel s p d =
      if f = s.params.fselOutput then o else if f = s.params.fselInput then s.env.padIn.getLsbD p else d := by
  rw [pinLevel, hf, ho]

/-! ### SetFsel and DigitalWrite (41_gpio.md R105, R107) -/

/-- Two pins of one function-select word have fields that do not overlap. -/
theorem fselOffset_apart {P : Params} {p q : Nat} (hw : fselWord P q = fselWord P p) (hne : q ≠ p) :
    fselOffset P q + P.fselBits ≤ fselOffset P p ∨ fselOffset P p + P.fselBits ≤ fselOffset P q := by
  have hp := Nat.div_add_mod p P.fselPerWord
  have hq := Nat.div_add_mod q P.fselPerWord
  simp only [fselWord] at hw
  rw [hw] at hq
  have hmod : q % P.fselPerWord ≠ p % P.fselPerWord := by omega
  rcases Nat.lt_or_gt_of_ne hmod with h | h
  · exact .inl (by simpa [fselOffset, Nat.add_mul] using Nat.mul_le_mul_right P.fselBits (Nat.succ_le_of_lt h))
  · exact .inr (by simpa [fselOffset, Nat.add_mul] using Nat.mul_le_mul_right P.fselBits (Nat.succ_le_of_lt h))

/-- `SetFsel(p, code)` on a well-shaped GPIO bank: pin `p`'s field becomes `code` and no other field changes. -/
theorem setFsel_ok {s : State} {p : Nat} {code : Word} (hP : s.params.GpioShape) (hm : s.block.gpioMapped = true)
    (hp : p < s.params.npins) (hfit : ∀ f ∈ s.block.fsel, f.toNat < 2 ^ s.params.fselBits)
    (hc : code.toNat < 2 ^ s.params.fselBits) :
    setFsel s p code = .ok (s.withFsel (s.block.fsel.set p code)) := by
  have hk : 1 ≤ s.params.fselPerWord := hP.2.1.2.1
  have hr := hasRegister_fsel hk hp
  have hm' : bankMapped s (.fsel (fselWord s.params p)) = true := hm
  simp only [setFsel, memRead_ok hm' hr, act_bind_ok, memWrite_ok hm' hr, writeLines, Except.ok.injEq]
  congr 1
  apply List.ext_getElem?
  intro q
  rw [List.getElem?_mapIdx, List.getElem?_set]
  cases hq : s.block.fsel[q]? with
  | none =>
    have hlen : ¬ q < s.block.fsel.length := by simpa using hq
    by_cases h : p = q <;> simp [h, hlen]
  | some f =>
    have hlen : q < s.block.fsel.length := (List.getElem?_eq_some_iff.mp hq).1
    have hff : f.toNat < 2 ^ s.params.fselBits := hfit f (List.mem_of_getElem? hq)
    by_cases h : p = q
    · subst h
      simp only [Option.map_some, if_true, hlen, Option.some.injEq]
      refine BusWord.field_eq hc fun j hj => ?_
      simp [hj]
    · simp only [h, if_false, Option.map_some, Option.some.injEq]
      split
      · rename_i hw
        refine BusWord.field_eq hff fun j hj => ?_
        rw [← hw, BusWord.or_apply, BusWord.andNot_apply, readLines_fsel hk hj hq]
        rcases fselOffset_apart hw (Ne.symm h) with ha | ha
        · have h₁ : ¬ fselOffset s.params p ≤ fselOffset s.params q + j := by omega
          simp [h₁]
        · have h₁ : ¬ fselOffset s.params q + j < fselOffset s.params p + s.params.fselBits := by omega
          have h₂ := getLsbD_of_toNat_lt hc
            (show s.params.fselBits ≤ fselOffset s.params q + j - fselOffset s.params p by omega)
          simp [h₁, h₂]
      · rfl

/-- A write of a single 1 bit to `SET` or `CLR` for an output pin changes that pin's latch and no other. -/
theorem latches_bit {s : State} {p : Nat} {l : Bool} (hf : s.block.fsel[p]? = some s.params.fselOutput) :
    latches s (levelWord s.params p) (BusWord.bit (levelOffset s.params p)) l = s.block.out.set p l := by
  apply List.ext_getElem?
  intro q
  rw [latches, List.getElem?_mapIdx, List.getElem?_set]
  cases hq : s.block.out[q]? with
  | none =>
    have hlen : ¬ q < s.block.out.length := by simpa using hq
    by_cases h : p = q <;> simp [h, hlen]
  | some o =>
    have hlen : q < s.block.out.length := (List.getElem?_eq_some_iff.mp hq).1
    by_cases h : p = q
    · subst h
      simp [hf, hlen]
    · have hne : ¬ (levelWord s.params q = levelWord s.params p ∧ levelOffset s.params q = levelOffset s.params p) := by
        rintro ⟨h₁, h₂⟩
        apply h
        have hp := Nat.div_add_mod p s.params.levelPerWord
        have hq := Nat.div_add_mod q s.params.levelPerWord
        simp only [levelWord, levelOffset] at h₁ h₂
        rw [h₁, h₂, hp] at hq
        exact hq
      have hcond : ¬ (levelWord s.params q = levelWord s.params p ∧
          BusWord.bit (levelOffset s.params p) (levelOffset s.params q) = true ∧
          s.block.fsel[q]? = some s.params.fselOutput) := by
        rintro ⟨h₁, h₂, -⟩
        exact hne ⟨h₁, by simpa using h₂⟩
      rw [if_neg h]
      simp only [Option.map_some, if_neg hcond]

/-- `DigitalWrite(p, level)` on a well-shaped GPIO bank: an output's latch takes the level and nothing else changes; any
other pin is rejected. -/
theorem digitalWriteTo_eq {s : State} {p : Nat} {f : Word} (level : Bool) (hP : s.params.GpioShape)
    (hm : s.block.gpioMapped = true) (hp : p < s.params.npins) (hf : s.block.fsel[p]? = some f)
    (hfit : f.toNat < 2 ^ s.params.fselBits) :
    digitalWriteTo s p level =
      if f = s.params.fselOutput then .ok (s.withOut (s.block.out.set p level))
      else .error (.raise .invalidPinState) := by
  have hk : 1 ≤ s.params.fselPerWord := hP.2.1.2.1
  have hm' : bankMapped s (.fsel (fselWord s.params p)) = true := hm
  simp only [digitalWriteTo, memRead_ok hm' (hasRegister_fsel hk hp), act_bind_ok, readField_fsel hk hf hfit]
  by_cases h : f = s.params.fselOutput
  · have hl := levelWord_lt hP.2.2.2.1 hp
    subst h
    cases level <;>
      simp [memWrite, access, bankMapped, hm, hasRegister, hl, writeLines, latches_bit hf]
  · simp [h]

/-! ### The shell of a command -/

@[simp] theorem conclude_ok (s t : State) (d : Data) : conclude s (.ok (d, t)) = .next (t.answer d) := rfl
@[simp] theorem conclude_raise (s : State) (e : ErrorKind) : conclude s (.error (.raise e)) = .next (s.raise e) := rfl
@[simp] theorem conclude_halt (s : State) : conclude s (.error .halt) = .next s.halt := rfl
@[simp] theorem conclude_fault (s : State) (f : Fault) : conclude s (.error (.fault f)) = .fault f := rfl
@[simp] theorem conclude_refuse (s : State) (r : Refusal) : conclude s (.error (.refuse r)) = .refused r := rfl

theorem command_running {s : State} (body : Act (Data × State)) (h : s.block.halted = false) :
    command s body = conclude s body := by rw [command, h]; rfl

theorem command_halted {s : State} (body : Act (Data × State)) (h : s.block.halted = true) :
    command s body = .next s.silent := by rw [command, h]; rfl

/-- All a command can do when it answers a next state: nothing (the block is halted), run to its end, raise an error
from the state it began in, or halt. -/
theorem command_next {s t : State} {body : Act (Data × State)} (h : command s body = .next t) :
    (s.block.halted = true ∧ t = s.silent) ∨
    (s.block.halted = false ∧
      ((∃ d u, body = .ok (d, u) ∧ t = u.answer d) ∨ (∃ e, body = .error (.raise e) ∧ t = s.raise e) ∨
        (body = .error .halt ∧ t = s.halt))) := by
  rw [command] at h
  cases hh : s.block.halted <;> rw [hh] at h
  · refine .inr ⟨rfl, ?_⟩
    match body, h with
    | .ok (d, u), h => exact .inl ⟨d, u, rfl, by simpa using h.symm⟩
    | .error (.raise e), h => exact .inr (.inl ⟨e, rfl, by simpa using h.symm⟩)
    | .error .halt, h => exact .inr (.inr ⟨rfl, by simpa using h.symm⟩)
  · exact .inl ⟨rfl, by simpa using h.symm⟩

end Sys2Proof.Machine
end

