-- ==== Sys2Proof/Laws/Exec.lean ====
section
/-! SUPPORT. The inversion lemma of every command: all it can do when it answers a next state, said once. It needs no
invariant; the frame and invariant proofs are case analyses of it. -/

namespace Sys2Proof.Machine

/-- What a completed command may leave: the data it answers and the state before the answer. The bank writes are given by
their register and an unnamed word; the lemmas of Laws/Ops.lean say what the word is. -/
def Effect (s : State) : Instr → Data → State → Prop
  | .gpioInit, d, u => d = 0#64 ∧ (u = s ∨ u = s.withGpioMapped true)
  | .gpioCleanup, d, u => d = 0#64 ∧ u = s.withGpioMapped false
  | .pinMode pin mode, d, u =>
    d = 0#64 ∧ s.block.gpioMapped = true ∧ pin.toNat < s.params.npins ∧
      setFsel s pin.toNat (modeCode s.params mode) = .ok u
  | .digitalWrite pin level, d, u =>
    d = 0#64 ∧ s.block.gpioMapped = true ∧ pin.toNat < s.params.npins ∧ digitalWriteTo s pin.toNat level.toBit = .ok u
  | .digitalRead pin, d, u =>
    u = s ∧ s.block.gpioMapped = true ∧ pin.toNat < s.params.npins ∧
      d = bitData (readLines s (.lev (levelWord s.params pin.toNat)) (levelOffset s.params pin.toNat))
  | .millis, d, u => d = s.env.nowMs ∧ u = s
  | .timerSet t interval, d, u =>
    d = 0#64 ∧ t.toNat < s.params.ntimer ∧ u = setTimer s t ⟨interval, add64 s.env.nowMs interval⟩
  | .timerExpired t, d, u =>
    u = s ∧ ∃ slot, s.block.timers[t.toNat]? = some slot ∧ d = bitData (reached s.env.nowMs slot.nextExpiry)
  | .timerTick t, d, u =>
    ∃ slot, s.block.timers[t.toNat]? = some slot ∧
      ((reached s.env.nowMs slot.nextExpiry = true ∧ d = 1#64 ∧
          u = setTimer s t ⟨slot.interval, add64 slot.nextExpiry slot.interval⟩) ∨
        (reached s.env.nowMs slot.nextExpiry = false ∧ d = 0#64 ∧ u = s))
  | .spwmCfg ch pin freq duty, d, u =>
    d = 0#64 ∧ s.block.gpioMapped = true ∧ pin.toNat < s.params.npins ∧ softConfigOk freq duty = true ∧
      ∃ old v, s.block.spwm[ch.toNat]? = some old ∧
        digitalWriteTo s pin.toNat (decide ((schedule freq duty).onMs ≠ 0)) = .ok v ∧
        u = setChannel v ch (startedChannel old pin (schedule freq duty) s.env.nowMs)
  | .spwmPoll ch, d, u =>
    s.block.gpioMapped = true ∧ ∃ c, s.block.spwm[ch.toNat]? = some c ∧ c.cfg = true ∧
      ((d = pollData c.phase false ∧ u = s ∧
          (c.steady = true ∨ reached s.env.nowMs c.tmr.nextExpiry = false)) ∨
        (c.steady = false ∧ reached s.env.nowMs c.tmr.nextExpiry = true ∧ d = pollData (!c.phase) true ∧
          ∃ v, digitalWriteTo s c.pin.toNat (!c.phase) = .ok v ∧ u = setChannel v ch (c.toggled s.env.nowMs)))
  | .hpwmInit, d, u => d = 0#64 ∧ (u = s ∨ u = s.withPwmMapped true)
  | .hpwmCleanup, d, u => d = 0#64 ∧ u = s.withPwmMapped false
  | .hpwmSet ch freq duty, d, u =>
    d = 0#64 ∧ ch.toNat < s.params.nhpwm ∧ s.block.pwmMapped = true ∧ duty.toNat ≤ 65536 ∧ freq.toNat ≠ 0 ∧
      ∃ div period s₁ s₂, select s.params freq.toNat = some (div, period) ∧ writeNat s (.div ch.toNat) div = .ok s₁ ∧
        writeNat s₁ (.rng ch.toNat) period = .ok s₂ ∧ writeNat s₂ (.dat ch.toNat) (dutyCount duty period) = .ok u
  | .hpwmEnable ch, d, u =>
    d = 0#64 ∧ ch.toNat < s.params.nhpwm ∧ s.block.pwmMapped = true ∧
      ∃ v b old, routeChannel s ch.toNat = .ok v ∧ s.params.pwmEnBit[ch.toNat]? = some b ∧ memRead v .ctl = .ok old ∧
        memWrite v .ctl (old.or (BusWord.bit b)) = .ok u
  | .hpwmDisable ch, d, u =>
    d = 0#64 ∧ ch.toNat < s.params.nhpwm ∧ s.block.pwmMapped = true ∧
      ∃ b old, s.params.pwmEnBit[ch.toNat]? = some b ∧ memRead s .ctl = .ok old ∧
        memWrite s .ctl (old.andNot (BusWord.bit b)) = .ok u

/-- `e` is an error of the command's list, and `IllegalCommand` only where the index operand is outside its file. -/
abbrev Raises (i : Instr) (s : State) (e : ErrorKind) : Prop :=
  e ∈ mayRaise i ∧ (e = .illegalCommand → ¬ i.WellFormed s.params)

/-- How a command can end with a next state: nothing happened because the block is halted, it completed with its effect,
it raised one of its errors from the state it began in, or it halted for want of a clock. -/
def EndsIn (s t : State) (i : Instr) : Prop :=
  (s.block.halted = true ∧ t = s.silent) ∨
  (s.block.halted = false ∧
    ((∃ d u, Effect s i d u ∧ t = u.answer d) ∨ (∃ e, Raises i s e ∧ t = s.raise e) ∨
      (samplesClock i = true ∧ i.WellFormed s.params ∧ s.env.clockOk = false ∧ t = s.halt)))

/-! ### Inversion of sequencing -/

theorem bind_ok {α β : Type} {x : Act α} {f : α → Act β} {y : β} (h : x >>= f = .ok y) :
    ∃ a, x = .ok a ∧ f a = .ok y := by
  cases x with
  | ok a => exact ⟨a, rfl, h⟩
  | error e => exact absurd h (by simp)

theorem bind_error {α β : Type} {x : Act α} {f : α → Act β} {e : Stop} (h : x >>= f = .error e) :
    x = .error e ∨ ∃ a, x = .ok a ∧ f a = .error e := by
  cases x with
  | ok a => exact .inr ⟨a, rfl, h⟩
  | error e' => exact .inl (by simpa using h)

theorem require_eq_ok {b : Bool} {e : ErrorKind} {x : Unit} (h : require b e = .ok x) : b = true := by
  cases b
  · simp at h
  · rfl

theorem require_eq_error {b : Bool} {e : ErrorKind} {x : Stop} (h : require b e = .error x) :
    b = false ∧ x = .raise e := by
  cases b
  · exact ⟨rfl, by simpa using h.symm⟩
  · simp at h

theorem present_eq_ok {α : Type} {o : Option α} {x : α} (h : present o = .ok x) : o = some x := by
  cases o <;> simp_all

theorem present_eq_error {α : Type} {o : Option α} {x : Stop} (h : present o = .error x) :
    x = .fault .noSuchRegister := by
  cases o with
  | none => simpa using h.symm
  | some a => simp at h

theorem sampleClock_eq_ok {s : State} {x : Time} (h : sampleClock s = .ok x) :
    s.env.clockOk = true ∧ x = s.env.nowMs := by
  cases hc : s.env.clockOk
  · rw [sampleClock_halt hc] at h; simp at h
  · rw [sampleClock_ok hc] at h; exact ⟨rfl, by simpa using h.symm⟩

theorem sampleClock_eq_error {s : State} {x : Stop} (h : sampleClock s = .error x) :
    s.env.clockOk = false ∧ x = .halt := by
  cases hc : s.env.clockOk
  · rw [sampleClock_halt hc] at h; exact ⟨rfl, by simpa using h.symm⟩
  · rw [sampleClock_ok hc] at h; simp at h

/-- A bank access raises no error of the block and does not halt it. -/
abbrev Stop.IsModel (e : Stop) : Prop := (∃ f, e = .fault f) ∨ ∃ r, e = .refuse r

theorem access_eq_error {s : State} {a : RegAddr} {e : Stop} (h : access s a = .error e) : e.IsModel := by
  rcases access_cases s a with ⟨-, -, h'⟩ | ⟨-, h'⟩ | ⟨-, h'⟩ <;> rw [h'] at h
  · simp at h
  · exact .inl ⟨_, by simpa using h.symm⟩
  · exact .inr ⟨_, by simpa using h.symm⟩

theorem memRead_eq_error {s : State} {a : RegAddr} {e : Stop} (h : memRead s a = .error e) : e.IsModel := by
  rcases bind_error h with h | ⟨-, -, h⟩
  · exact access_eq_error h
  · simp at h

theorem memRead_eq_ok {s : State} {a : RegAddr} {v : BusWord} (h : memRead s a = .ok v) : v = readLines s a := by
  obtain ⟨_, -, h⟩ := bind_ok h
  simpa using h.symm

theorem memWrite_eq_error {s : State} {a : RegAddr} {v : BusWord} {e : Stop} (h : memWrite s a v = .error e) :
    e.IsModel := by
  rcases bind_error h with h | ⟨-, -, h⟩
  · exact access_eq_error h
  · simp at h

theorem memWrite_eq_ok {s u : State} {a : RegAddr} {v : BusWord} (h : memWrite s a v = .ok u) : u = writeLines s a v := by
  obtain ⟨_, -, h⟩ := bind_ok h
  simpa using h.symm

theorem setFsel_eq_error {s : State} {p : Nat} {code : Word} {e : Stop} (h : setFsel s p code = .error e) :
    e.IsModel := by
  rcases bind_error h with h | ⟨_, -, h⟩
  · exact memRead_eq_error h
  · exact memWrite_eq_error h

/-- `SetFsel` writes one function-select word and nothing else. -/
theorem setFsel_eq_ok {s u : State} {p : Nat} {code : Word} (h : setFsel s p code = .ok u) :
    ∃ v, u = writeLines s (.fsel (fselWord s.params p)) v := by
  obtain ⟨v, -, h⟩ := bind_ok h
  exact ⟨_, memWrite_eq_ok h⟩

/-- `DigitalWrite` raises `InvalidPinStateError` and nothing else. -/
theorem digitalWriteTo_eq_error {s : State} {p : Nat} {l : Bool} {e : Stop} (h : digitalWriteTo s p l = .error e) :
    e.IsModel ∨ e = .raise .invalidPinState := by
  rcases bind_error h with h | ⟨_, -, h⟩
  · exact .inl (memRead_eq_error h)
  · rcases bind_error h with h | ⟨_, -, h⟩
    · exact .inr (require_eq_error h).2
    · exact .inl (memWrite_eq_error h)

/-- `DigitalWrite` writes one set or clear word and nothing else. -/
theorem digitalWriteTo_eq_ok {s u : State} {p : Nat} {l : Bool} (h : digitalWriteTo s p l = .ok u) :
    u = s.withOut (latches s (levelWord s.params p) (BusWord.bit (levelOffset s.params p)) l) := by
  obtain ⟨_, -, h⟩ := bind_ok h
  obtain ⟨_, -, h⟩ := bind_ok h
  rw [memWrite_eq_ok h]
  cases l <;> rfl

theorem writeNat_eq_error {s : State} {a : RegAddr} {n : Nat} {e : Stop} (h : writeNat s a n = .error e) : e.IsModel :=
  memWrite_eq_error h

theorem selection_eq_ok {P : Params} {f : BitVec 32} {x : Nat × Nat} (h : selection P f = .ok x) :
    select P f.toNat = some x := by
  rw [selection] at h
  split at h <;> simp_all

theorem selection_eq_error {P : Params} {f : BitVec 32} {e : Stop} (h : selection P f = .error e) :
    select P f.toNat = none ∧ e = .raise .invalidConfiguration := by
  rw [selection] at h
  split at h <;> simp_all

/-- Routing raises `NotInitializedError` and nothing else. -/
theorem routeChannel_eq_error {s : State} {c : Nat} {e : Stop} (h : routeChannel s c = .error e) :
    e.IsModel ∨ e = .raise .notInitialized := by
  rw [routeChannel] at h
  split at h
  · rcases bind_error h with h | ⟨_, -, h⟩
    · exact .inr (require_eq_error h).2
    · rcases bind_error h with h | ⟨_, -, h⟩
      · exact .inl (.inl ⟨_, present_eq_error h⟩)
      · rcases bind_error h with h | ⟨_, -, h⟩
        · exact .inl (.inl ⟨_, present_eq_error h⟩)
        · exact .inl (setFsel_eq_error h)
  · simp at h

/-! ### Inversion of a command -/

/-- A body's early ends: a stop of the model, an error of the command's list, or the loss of the clock. -/
abbrev EndsEarly (i : Instr) (s : State) (e : Stop) : Prop :=
  e.IsModel ∨ (∃ k, Raises i s k ∧ e = .raise k) ∨
    (e = .halt ∧ samplesClock i = true ∧ i.WellFormed s.params ∧ s.env.clockOk = false)

theorem command_ends {i : Instr} {s t : State} {body : Act (Data × State)} (h : command s body = .next t)
    (hok : ∀ d u, body = .ok (d, u) → Effect s i d u) (herr : ∀ e, body = .error e → EndsEarly i s e) :
    EndsIn s t i := by
  rcases command_next h with h | ⟨hh, ⟨d, u, hb, rfl⟩ | ⟨e, hb, rfl⟩ | ⟨hb, rfl⟩⟩
  · exact .inl h
  · exact .inr ⟨hh, .inl ⟨d, u, hok d u hb, rfl⟩⟩
  · rcases herr _ hb with (⟨f, h⟩ | ⟨r, h⟩) | ⟨k, hk, h⟩ | ⟨h, -⟩
    · cases h
    · cases h
    · exact .inr ⟨hh, .inr (.inl ⟨k, hk, by cases h; rfl⟩)⟩
    · cases h
  · rcases herr _ hb with (⟨f, h⟩ | ⟨r, h⟩) | ⟨k, hk, h⟩ | ⟨-, h⟩
    · cases h
    · cases h
    · cases h
    · exact .inr ⟨hh, .inr (.inr ⟨h.1, h.2.1, h.2.2, rfl⟩)⟩

theorem requireIndex_eq_ok {i : BitVec 8} {n : Nat} {x : Unit} (h : requireIndex i n = .ok x) : i.toNat < n := by
  simpa using require_eq_ok h

/-- The early end of the index check. -/
theorem endsEarly_index {i : Instr} {s : State} {j : BitVec 8} {n : Nat} {e : Stop} (h : requireIndex j n = .error e)
    (hm : ErrorKind.illegalCommand ∈ mayRaise i) (hw : i.WellFormed s.params → j.toNat < n) : EndsEarly i s e :=
  .inr (.inl ⟨_, ⟨hm, fun _ w => absurd (hw w) (by simpa using (require_eq_error h).1)⟩, (require_eq_error h).2⟩)

/-- The early end of another check. -/
theorem endsEarly_require {i : Instr} {s : State} {b : Bool} {k : ErrorKind} {e : Stop} (h : require b k = .error e)
    (hm : k ∈ mayRaise i) (hk : k ≠ .illegalCommand := by decide) : EndsEarly i s e :=
  .inr (.inl ⟨_, ⟨hm, fun h => absurd h hk⟩, (require_eq_error h).2⟩)

/-- The early end of the clock sample. -/
theorem endsEarly_clock {i : Instr} {s : State} {e : Stop} (h : sampleClock s = .error e) (hs : samplesClock i = true)
    (hw : i.WellFormed s.params) : EndsEarly i s e :=
  .inr (.inr ⟨(sampleClock_eq_error h).2, hs, hw, (sampleClock_eq_error h).1⟩)

theorem execGpioInit_ends {s t : State} (h : execGpioInit s = .next t) : EndsIn s t .gpioInit := by
  refine command_ends h (fun d u hb => ?_) fun e hb => ?_
  · split at hb
    · obtain ⟨rfl, rfl⟩ : 0#64 = d ∧ s = u := by simpa using hb
      exact ⟨rfl, .inl rfl⟩
    · obtain ⟨_, -, hb⟩ := bind_ok hb
      obtain ⟨rfl, rfl⟩ : 0#64 = d ∧ s.withGpioMapped true = u := by simpa using hb
      exact ⟨rfl, .inr rfl⟩
  · split at hb
    · simp at hb
    · rcases bind_error hb with hb | ⟨_, -, hb⟩
      · exact endsEarly_require hb (by simp [mayRaise])
      · simp at hb

theorem execHpwmInit_ends {s t : State} (h : execHpwmInit s = .next t) : EndsIn s t .hpwmInit := by
  refine command_ends h (fun d u hb => ?_) fun e hb => ?_
  · split at hb
    · obtain ⟨rfl, rfl⟩ : 0#64 = d ∧ s = u := by simpa using hb
      exact ⟨rfl, .inl rfl⟩
    · obtain ⟨_, -, hb⟩ := bind_ok hb
      obtain ⟨rfl, rfl⟩ : 0#64 = d ∧ s.withPwmMapped true = u := by simpa using hb
      exact ⟨rfl, .inr rfl⟩
  · split at hb
    · simp at hb
    · rcases bind_error hb with hb | ⟨_, -, hb⟩
      · exact endsEarly_require hb (by simp [mayRaise])
      · simp at hb

theorem execGpioCleanup_ends {s t : State} (h : execGpioCleanup s = .next t) : EndsIn s t .gpioCleanup := by
  refine command_ends h (fun d u hb => ?_) fun e hb => by simp at hb
  obtain ⟨rfl, rfl⟩ : 0#64 = d ∧ s.withGpioMapped false = u := by simpa using hb
  exact ⟨rfl, rfl⟩

theorem execHpwmCleanup_ends {s t : State} (h : execHpwmCleanup s = .next t) : EndsIn s t .hpwmCleanup := by
  refine command_ends h (fun d u hb => ?_) fun e hb => by simp at hb
  obtain ⟨rfl, rfl⟩ : 0#64 = d ∧ s.withPwmMapped false = u := by simpa using hb
  exact ⟨rfl, rfl⟩

theorem execPinMode_ends {pin : BitVec 8} {mode : Mode} {s t : State} (h : execPinMode pin mode s = .next t) :
    EndsIn s t (.pinMode pin mode) := by
  refine command_ends h (fun d u hb => ?_) fun e hb => ?_
  · obtain ⟨_, hg, hb⟩ := bind_ok hb
    obtain ⟨_, hp, hb⟩ := bind_ok hb
    obtain ⟨v, hv, hb⟩ := bind_ok hb
    obtain ⟨rfl, rfl⟩ : 0#64 = d ∧ v = u := by simpa using hb
    exact ⟨rfl, require_eq_ok hg, by simpa using require_eq_ok hp, hv⟩
  · rcases bind_error hb with hb | ⟨_, -, hb⟩
    · exact endsEarly_require hb (by simp [mayRaise])
    rcases bind_error hb with hb | ⟨_, -, hb⟩
    · exact endsEarly_require hb (by simp [mayRaise])
    rcases bind_error hb with hb | ⟨_, -, hb⟩
    · exact .inl (setFsel_eq_error hb)
    · simp at hb

/-- The early end of `DigitalWrite`. -/
theorem endsEarly_digitalWrite {i : Instr} {s v : State} {p : Nat} {l : Bool} {e : Stop}
    (h : digitalWriteTo v p l = .error e) (hm : ErrorKind.invalidPinState ∈ mayRaise i) : EndsEarly i s e :=
  (digitalWriteTo_eq_error h).imp id fun h => .inl ⟨_, ⟨hm, by simp⟩, h⟩

theorem execDigitalWrite_ends {pin : BitVec 8} {level : Level} {s t : State}
    (h : execDigitalWrite pin level s = .next t) : EndsIn s t (.digitalWrite pin level) := by
  refine command_ends h (fun d u hb => ?_) fun e hb => ?_
  · obtain ⟨_, hg, hb⟩ := bind_ok hb
    obtain ⟨_, hp, hb⟩ := bind_ok hb
    obtain ⟨v, hv, hb⟩ := bind_ok hb
    obtain ⟨rfl, rfl⟩ : 0#64 = d ∧ v = u := by simpa using hb
    exact ⟨rfl, require_eq_ok hg, by simpa using require_eq_ok hp, hv⟩
  · rcases bind_error hb with hb | ⟨_, -, hb⟩
    · exact endsEarly_require hb (by simp [mayRaise])
    rcases bind_error hb with hb | ⟨_, -, hb⟩
    · exact endsEarly_require hb (by simp [mayRaise])
    rcases bind_error hb with hb | ⟨_, -, hb⟩
    · exact endsEarly_digitalWrite hb (by simp [mayRaise])
    · simp at hb

theorem execDigitalRead_ends {pin : BitVec 8} {s t : State} (h : execDigitalRead pin s = .next t) :
    EndsIn s t (.digitalRead pin) := by
  refine command_ends h (fun d u hb => ?_) fun e hb => ?_
  · obtain ⟨_, hg, hb⟩ := bind_ok hb
    obtain ⟨_, hp, hb⟩ := bind_ok hb
    obtain ⟨v, hv, hb⟩ := bind_ok hb
    obtain ⟨rfl, rfl⟩ : bitData (v (levelOffset s.params pin.toNat)) = d ∧ s = u := by simpa using hb
    exact ⟨rfl, require_eq_ok hg, by simpa using require_eq_ok hp, by rw [memRead_eq_ok hv]⟩
  · rcases bind_error hb with hb | ⟨_, -, hb⟩
    · exact endsEarly_require hb (by simp [mayRaise])
    rcases bind_error hb with hb | ⟨_, -, hb⟩
    · exact endsEarly_require hb (by simp [mayRaise])
    rcases bind_error hb with hb | ⟨_, -, hb⟩
    · exact .inl (memRead_eq_error hb)
    · simp at hb

theorem execMillis_ends {s t : State} (h : execMillis s = .next t) : EndsIn s t .millis := by
  refine command_ends h (fun d u hb => ?_) fun e hb => ?_
  · obtain ⟨now, hn, hb⟩ := bind_ok hb
    obtain ⟨rfl, rfl⟩ : now = d ∧ s = u := by simpa using hb
    exact ⟨(sampleClock_eq_ok hn).2, rfl⟩
  · rcases bind_error hb with hb | ⟨_, -, hb⟩
    · exact endsEarly_clock hb rfl trivial
    · simp at hb

theorem execTimerSet_ends {t : BitVec 8} {interval : BitVec 64} {s u : State}
    (h : execTimerSet t interval s = .next u) : EndsIn s u (.timerSet t interval) := by
  refine command_ends h (fun d v hb => ?_) fun e hb => ?_
  · obtain ⟨_, hi, hb⟩ := bind_ok hb
    obtain ⟨now, hn, hb⟩ := bind_ok hb
    obtain ⟨_, -, hb⟩ := bind_ok hb
    rw [(sampleClock_eq_ok hn).2] at hb
    obtain ⟨rfl, rfl⟩ : 0#64 = d ∧ setTimer s t ⟨interval, add64 s.env.nowMs interval⟩ = v := by simpa using hb
    exact ⟨rfl, requireIndex_eq_ok hi, rfl⟩
  · rcases bind_error hb with hb | ⟨_, hi, hb⟩
    · exact endsEarly_index hb (by simp [mayRaise]) id
    rcases bind_error hb with hb | ⟨_, -, hb⟩
    · exact endsEarly_clock hb rfl (requireIndex_eq_ok hi)
    rcases bind_error hb with hb | ⟨_, -, hb⟩
    · exact .inl (.inl ⟨_, present_eq_error hb⟩)
    · simp at hb

theorem execTimerExpired_ends {t : BitVec 8} {s u : State} (h : execTimerExpired t s = .next u) :
    EndsIn s u (.timerExpired t) := by
  refine command_ends h (fun d v hb => ?_) fun e hb => ?_
  · obtain ⟨_, -, hb⟩ := bind_ok hb
    obtain ⟨now, hn, hb⟩ := bind_ok hb
    obtain ⟨slot, hs, hb⟩ := bind_ok hb
    rw [(sampleClock_eq_ok hn).2] at hb
    obtain ⟨rfl, rfl⟩ : bitData (reached s.env.nowMs slot.nextExpiry) = d ∧ s = v := by simpa using hb
    exact ⟨rfl, slot, present_eq_ok hs, rfl⟩
  · rcases bind_error hb with hb | ⟨_, hi, hb⟩
    · exact endsEarly_index hb (by simp [mayRaise]) id
    rcases bind_error hb with hb | ⟨_, -, hb⟩
    · exact endsEarly_clock hb rfl (requireIndex_eq_ok hi)
    rcases bind_error hb with hb | ⟨_, -, hb⟩
    · exact .inl (.inl ⟨_, present_eq_error hb⟩)
    · simp at hb

theorem execTimerTick_ends {t : BitVec 8} {s u : State} (h : execTimerTick t s = .next u) :
    EndsIn s u (.timerTick t) := by
  refine command_ends h (fun d v hb => ?_) fun e hb => ?_
  · obtain ⟨_, -, hb⟩ := bind_ok hb
    obtain ⟨now, hn, hb⟩ := bind_ok hb
    obtain ⟨slot, hs, hb⟩ := bind_ok hb
    rw [(sampleClock_eq_ok hn).2] at hb
    refine ⟨slot, present_eq_ok hs, ?_⟩
    split at hb <;> rename_i hr
    · obtain ⟨rfl, rfl⟩ : 1#64 = d ∧ setTimer s t ⟨slot.interval, add64 slot.nextExpiry slot.interval⟩ = v := by
        simpa using hb
      exact .inl ⟨hr, rfl, rfl⟩
    · obtain ⟨rfl, rfl⟩ : 0#64 = d ∧ s = v := by simpa using hb
      exact .inr ⟨by simpa using hr, rfl, rfl⟩
  · rcases bind_error hb with hb | ⟨_, hi, hb⟩
    · exact endsEarly_index hb (by simp [mayRaise]) id
    rcases bind_error hb with hb | ⟨_, -, hb⟩
    · exact endsEarly_clock hb rfl (requireIndex_eq_ok hi)
    rcases bind_error hb with hb | ⟨_, -, hb⟩
    · exact .inl (.inl ⟨_, present_eq_error hb⟩)
    · split at hb <;> simp at hb

theorem execSpwmCfg_ends {ch pin : BitVec 8} {freq : BitVec 32} {duty : BitVec 17} {s t : State}
    (h : execSpwmCfg ch pin freq duty s = .next t) : EndsIn s t (.spwmCfg ch pin freq duty) := by
  refine command_ends h (fun d u hb => ?_) fun e hb => ?_
  · obtain ⟨_, -, hb⟩ := bind_ok hb
    obtain ⟨now, hn, hb⟩ := bind_ok hb
    obtain ⟨_, hg, hb⟩ := bind_ok hb
    obtain ⟨_, hp, hb⟩ := bind_ok hb
    obtain ⟨_, hc, hb⟩ := bind_ok hb
    obtain ⟨old, ho, hb⟩ := bind_ok hb
    obtain ⟨v, hv, hb⟩ := bind_ok hb
    rw [(sampleClock_eq_ok hn).2] at hb
    obtain ⟨rfl, rfl⟩ : 0#64 = d ∧ setChannel v ch (startedChannel old pin (schedule freq duty) s.env.nowMs) = u := by
      simpa using hb
    exact ⟨rfl, require_eq_ok hg, by simpa using require_eq_ok hp, require_eq_ok hc, old, v, present_eq_ok ho, hv, rfl⟩
  · rcases bind_error hb with hb | ⟨_, hi, hb⟩
    · exact endsEarly_index hb (by simp [mayRaise]) id
    rcases bind_error hb with hb | ⟨_, -, hb⟩
    · exact endsEarly_clock hb rfl (requireIndex_eq_ok hi)
    rcases bind_error hb with hb | ⟨_, -, hb⟩
    · exact endsEarly_require hb (by simp [mayRaise])
    rcases bind_error hb with hb | ⟨_, -, hb⟩
    · exact endsEarly_require hb (by simp [mayRaise])
    rcases bind_error hb with hb | ⟨_, -, hb⟩
    · exact endsEarly_require hb (by simp [mayRaise])
    rcases bind_error hb with hb | ⟨_, -, hb⟩
    · exact .inl (.inl ⟨_, present_eq_error hb⟩)
    rcases bind_error hb with hb | ⟨_, -, hb⟩
    · exact endsEarly_digitalWrite hb (by simp [mayRaise])
    · simp at hb

theorem execSpwmPoll_ends {ch : BitVec 8} {s t : State} (h : execSpwmPoll ch s = .next t) :
    EndsIn s t (.spwmPoll ch) := by
  refine command_ends h (fun d u hb => ?_) fun e hb => ?_
  · obtain ⟨_, -, hb⟩ := bind_ok hb
    obtain ⟨now, hn, hb⟩ := bind_ok hb
    obtain ⟨_, hg, hb⟩ := bind_ok hb
    obtain ⟨c, hc, hb⟩ := bind_ok hb
    obtain ⟨_, hf, hb⟩ := bind_ok hb
    rw [(sampleClock_eq_ok hn).2] at hb
    refine ⟨require_eq_ok hg, c, present_eq_ok hc, require_eq_ok hf, ?_⟩
    split at hb <;> rename_i hst
    · obtain ⟨rfl, rfl⟩ : pollData c.phase false = d ∧ s = u := by simpa using hb
      exact .inl ⟨rfl, rfl, .inl hst⟩
    · split at hb <;> rename_i hr
      · obtain ⟨v, hv, hb⟩ := bind_ok hb
        obtain ⟨rfl, rfl⟩ : pollData (!c.phase) true = d ∧ setChannel v ch (c.toggled s.env.nowMs) = u := by
          simpa using hb
        exact .inr ⟨by simpa using hst, hr, rfl, v, hv, rfl⟩
      · obtain ⟨rfl, rfl⟩ : pollData c.phase false = d ∧ s = u := by simpa using hb
        exact .inl ⟨rfl, rfl, .inr (by simpa using hr)⟩
  · rcases bind_error hb with hb | ⟨_, hi, hb⟩
    · exact endsEarly_index hb (by simp [mayRaise]) id
    rcases bind_error hb with hb | ⟨_, -, hb⟩
    · exact endsEarly_clock hb rfl (requireIndex_eq_ok hi)
    rcases bind_error hb with hb | ⟨_, -, hb⟩
    · exact endsEarly_require hb (by simp [mayRaise])
    rcases bind_error hb with hb | ⟨_, -, hb⟩
    · exact .inl (.inl ⟨_, present_eq_error hb⟩)
    rcases bind_error hb with hb | ⟨_, -, hb⟩
    · exact endsEarly_require hb (by simp [mayRaise])
    split at hb
    · simp at hb
    · split at hb
      · rcases bind_error hb with hb | ⟨_, -, hb⟩
        · exact endsEarly_digitalWrite hb (by simp [mayRaise])
        · simp at hb
      · simp at hb

theorem execHpwmSet_ends {ch : BitVec 8} {freq : BitVec 32} {duty : BitVec 17} {s t : State}
    (h : execHpwmSet ch freq duty s = .next t) : EndsIn s t (.hpwmSet ch freq duty) := by
  refine command_ends h (fun d u hb => ?_) fun e hb => ?_
  · obtain ⟨_, hi, hb⟩ := bind_ok hb
    obtain ⟨_, hm, hb⟩ := bind_ok hb
    obtain ⟨_, hc, hb⟩ := bind_ok hb
    obtain ⟨⟨div, period⟩, hs, hb⟩ := bind_ok hb
    obtain ⟨s₁, h₁, hb⟩ := bind_ok hb
    obtain ⟨s₂, h₂, hb⟩ := bind_ok hb
    obtain ⟨s₃, h₃, hb⟩ := bind_ok hb
    obtain ⟨rfl, rfl⟩ : 0#64 = d ∧ s₃ = u := by simpa using hb
    have hc' := of_decide_eq_true (require_eq_ok hc)
    exact ⟨rfl, requireIndex_eq_ok hi, require_eq_ok hm, hc'.1, hc'.2, div, period, s₁, s₂, selection_eq_ok hs, h₁, h₂, h₃⟩
  · rcases bind_error hb with hb | ⟨_, -, hb⟩
    · exact endsEarly_index hb (by simp [mayRaise]) id
    rcases bind_error hb with hb | ⟨_, -, hb⟩
    · exact endsEarly_require hb (by simp [mayRaise])
    rcases bind_error hb with hb | ⟨_, -, hb⟩
    · exact endsEarly_require hb (by simp [mayRaise])
    rcases bind_error hb with hb | ⟨⟨_, _⟩, -, hb⟩
    · exact .inr (.inl ⟨_, ⟨by simp [mayRaise], by simp⟩, (selection_eq_error hb).2⟩)
    rcases bind_error hb with hb | ⟨_, -, hb⟩
    · exact .inl (writeNat_eq_error hb)
    rcases bind_error hb with hb | ⟨_, -, hb⟩
    · exact .inl (writeNat_eq_error hb)
    rcases bind_error hb with hb | ⟨_, -, hb⟩
    · exact .inl (writeNat_eq_error hb)
    · simp at hb

theorem execHpwmEnable_ends {ch : BitVec 8} {s t : State} (h : execHpwmEnable ch s = .next t) :
    EndsIn s t (.hpwmEnable ch) := by
  refine command_ends h (fun d u hb => ?_) fun e hb => ?_
  · obtain ⟨_, hi, hb⟩ := bind_ok hb
    obtain ⟨_, hm, hb⟩ := bind_ok hb
    obtain ⟨v, hv, hb⟩ := bind_ok hb
    obtain ⟨b, hbit, hb⟩ := bind_ok hb
    obtain ⟨old, ho, hb⟩ := bind_ok hb
    obtain ⟨w, hw, hb⟩ := bind_ok hb
    obtain ⟨rfl, rfl⟩ : 0#64 = d ∧ w = u := by simpa using hb
    exact ⟨rfl, requireIndex_eq_ok hi, require_eq_ok hm, v, b, old, hv, present_eq_ok hbit, ho, hw⟩
  · rcases bind_error hb with hb | ⟨_, -, hb⟩
    · exact endsEarly_index hb (by simp [mayRaise]) id
    rcases bind_error hb with hb | ⟨_, -, hb⟩
    · exact endsEarly_require hb (by simp [mayRaise])
    rcases bind_error hb with hb | ⟨_, -, hb⟩
    · exact (routeChannel_eq_error hb).imp id fun h => .inl ⟨_, ⟨by simp [mayRaise], by simp⟩, h⟩
    rcases bind_error hb with hb | ⟨_, -, hb⟩
    · exact .inl (.inl ⟨_, present_eq_error hb⟩)
    rcases bind_error hb with hb | ⟨_, -, hb⟩
    · exact .inl (memRead_eq_error hb)
    rcases bind_error hb with hb | ⟨_, -, hb⟩
    · exact .inl (memWrite_eq_error hb)
    · simp at hb

theorem execHpwmDisable_ends {ch : BitVec 8} {s t : State} (h : execHpwmDisable ch s = .next t) :
    EndsIn s t (.hpwmDisable ch) := by
  refine command_ends h (fun d u hb => ?_) fun e hb => ?_
  · obtain ⟨_, hi, hb⟩ := bind_ok hb
    obtain ⟨_, hm, hb⟩ := bind_ok hb
    obtain ⟨b, hbit, hb⟩ := bind_ok hb
    obtain ⟨old, ho, hb⟩ := bind_ok hb
    obtain ⟨w, hw, hb⟩ := bind_ok hb
    obtain ⟨rfl, rfl⟩ : 0#64 = d ∧ w = u := by simpa using hb
    exact ⟨rfl, requireIndex_eq_ok hi, require_eq_ok hm, b, old, present_eq_ok hbit, ho, hw⟩
  · rcases bind_error hb with hb | ⟨_, -, hb⟩
    · exact endsEarly_index hb (by simp [mayRaise]) id
    rcases bind_error hb with hb | ⟨_, -, hb⟩
    · exact endsEarly_require hb (by simp [mayRaise])
    rcases bind_error hb with hb | ⟨_, -, hb⟩
    · exact .inl (.inl ⟨_, present_eq_error hb⟩)
    rcases bind_error hb with hb | ⟨_, -, hb⟩
    · exact .inl (memRead_eq_error hb)
    rcases bind_error hb with hb | ⟨_, -, hb⟩
    · exact .inl (memWrite_eq_error hb)
    · simp at hb

/-- All a command can do when it answers a next state. -/
theorem exec_ends {i : Instr} {s t : State} (h : exec i s = .next t) : EndsIn s t i := by
  cases i with
  | gpioInit => exact execGpioInit_ends h
  | gpioCleanup => exact execGpioCleanup_ends h
  | pinMode => exact execPinMode_ends h
  | digitalWrite => exact execDigitalWrite_ends h
  | digitalRead => exact execDigitalRead_ends h
  | millis => exact execMillis_ends h
  | timerSet => exact execTimerSet_ends h
  | timerExpired => exact execTimerExpired_ends h
  | timerTick => exact execTimerTick_ends h
  | spwmCfg => exact execSpwmCfg_ends h
  | spwmPoll => exact execSpwmPoll_ends h
  | hpwmInit => exact execHpwmInit_ends h
  | hpwmCleanup => exact execHpwmCleanup_ends h
  | hpwmSet => exact execHpwmSet_ends h
  | hpwmEnable => exact execHpwmEnable_ends h
  | hpwmDisable => exact execHpwmDisable_ends h

end Sys2Proof.Machine
end

