-- ==== Sys2Proof/Laws/HardPwm.lean ====
section
/-! SUPPORT. What the hardware PWM unit's shared operations do. -/

namespace Sys2Proof.Machine

/-- The read-modify-write of `PWM.CTL`, first half. -/
theorem memRead_ctl {s : State} (hm : s.block.pwmMapped = true) :
    memRead s .ctl = .ok (BusWord.ofWord s.block.pwmCtl) := memRead_ok hm rfl

/-- The read-modify-write of `PWM.CTL`, second half. -/
theorem memWrite_ctl {s : State} {v : BusWord} (hm : s.block.pwmMapped = true) :
    memWrite s .ctl v = .ok (s.withPwmCtl v.word) := memWrite_ok hm rfl

theorem writeNat_div {s : State} {c n : Nat} (hm : s.block.pwmMapped = true) (hc : c < s.params.nhpwm) :
    writeNat s (.div c) n = .ok (s.withPwmDiv (s.block.pwmDiv.set (divIndex s.params c) (BitVec.ofNat 32 n))) := by
  have hm' : bankMapped s (.div c) = true := hm
  rw [writeNat, memWrite_ok hm' (by simpa [hasRegister] using hc)]
  simp [writeLines]

theorem writeNat_rng {s : State} {c n : Nat} (hm : s.block.pwmMapped = true) (hc : c < s.params.nhpwm) :
    writeNat s (.rng c) n = .ok (s.withPwmRng (s.block.pwmRng.set c (BitVec.ofNat 32 n))) := by
  have hm' : bankMapped s (.rng c) = true := hm
  rw [writeNat, memWrite_ok hm' (by simpa [hasRegister] using hc)]
  simp [writeLines]

theorem writeNat_dat {s : State} {c n : Nat} (hm : s.block.pwmMapped = true) (hc : c < s.params.nhpwm) :
    writeNat s (.dat c) n = .ok (s.withPwmDat (s.block.pwmDat.set c (BitVec.ofNat 32 n))) := by
  have hm' : bankMapped s (.dat c) = true := hm
  rw [writeNat, memWrite_ok hm' (by simpa [hasRegister] using hc)]
  simp [writeLines]

/-- The three writes of `HPWM_SET`, one after the other, whatever follows them. -/
theorem writeNat_triple {s : State} {c n₁ n₂ n₃ : Nat} {α : Type} (hm : s.block.pwmMapped = true)
    (hc : c < s.params.nhpwm) (k : State → Act α) :
    (do
      let s₁ ← writeNat s (.div c) n₁
      let s₂ ← writeNat s₁ (.rng c) n₂
      let s₃ ← writeNat s₂ (.dat c) n₃
      k s₃) =
    k (((s.withPwmDiv (s.block.pwmDiv.set (divIndex s.params c) (BitVec.ofNat 32 n₁))).withPwmRng
      (s.block.pwmRng.set c (BitVec.ofNat 32 n₂))).withPwmDat (s.block.pwmDat.set c (BitVec.ofNat 32 n₃))) := by
  rw [writeNat_div hm hc, act_bind_ok, writeNat_rng (by exact hm) (by exact hc), act_bind_ok,
    writeNat_dat (by exact hm) (by exact hc), act_bind_ok]
  rfl

/-- Routing on a platform that needs no alternate function does nothing. -/
theorem routeChannel_plain {s : State} {c : Nat} (h : s.params.pwmNeedsAlt = false) : routeChannel s c = .ok s := by
  rw [routeChannel, h]
  rfl

/-- Routing on a platform that needs an alternate function writes the pin's function-select field. -/
theorem routeChannel_alt {s : State} {c p : Nat} {a : Word} (h : s.params.pwmNeedsAlt = true) (hP : s.params.GpioShape)
    (hA : s.params.AltShape) (hm : s.block.gpioMapped = true) (hp : s.params.pwmPin[c]? = some p)
    (ha : s.params.pwmAlt[c]? = some a) (hfit : ∀ f ∈ s.block.fsel, f.toNat < 2 ^ s.params.fselBits) :
    routeChannel s c = .ok (s.withFsel (s.block.fsel.set p a)) := by
  have hpin := (hA h).1.2.1 p (List.mem_of_getElem? hp)
  have halt := ((hA h).2.2 a (List.mem_of_getElem? ha)).1
  rw [routeChannel, if_pos h, requireGpio_ok hm, hp, ha]
  simpa using setFsel_ok hP hm hpin hfit halt

/-- The record `HP[c]` is the entries of the three files and the enable bit. -/
theorem hwChannel_eq_some {s : State} {c : Nat} {h : HwChannel} :
    hwChannel s c = some h ↔
      s.block.pwmDiv[divIndex s.params c]? = some h.div ∧ s.block.pwmRng[c]? = some h.period ∧
        s.block.pwmDat[c]? = some h.duty ∧ enabled s c = h.en := by
  simp only [hwChannel, Option.bind_eq_bind, Option.bind_eq_some_iff, Option.pure_def, Option.some.injEq]
  constructor
  · rintro ⟨d, hd, r, hr, t, ht, rfl⟩
    exact ⟨hd, hr, ht, rfl⟩
  · rintro ⟨hd, hr, ht, he⟩
    exact ⟨_, hd, _, hr, _, ht, by rw [he]⟩

/-- One turn of the divider loop succeeds exactly when the divider works. -/
theorem tryDivider_eq_some {P : Params} {f d : Nat} {x : Nat × Nat} :
    tryDivider P f d = some x ↔
      x = (d, periodCount P f d) ∧ 1 ≤ periodCount P f d ∧ periodCount P f d ≤ P.pwmPeriodMax ∧
        withinTolerance P f d (periodCount P f d) = true := by
  rw [tryDivider]
  split
  · rename_i h
    simp [h, eq_comm]
  · rename_i h
    simp only [reduceCtorEq, false_iff]
    rintro ⟨-, h'⟩
    exact h h'

end Sys2Proof.Machine
end

