-- ==== Sys2Proof/Laws/PerInstr.lean ====
section
/-! SUPPORT. Statements made of every instruction, one lemma for each constructor.

`EncodeInTable`: the frame of an instruction is covered by a row of the opcode map whose command it is. -/

namespace Sys2Proof.Laws

/-- Some row of the opcode map covers the instruction's frame and reads the instruction back from it. -/
def EncodeInTable.Statement (i : Instr) : Prop :=
  ∃ r ∈ opcodeTable, r.covers (encode i) = true ∧ r.command (encode i) = i

/-- A row at a known place of the map, its mask and pattern given by fields. -/
theorem encodeInTable_of_row (k : Nat) (hk : k < opcodeTable.length) {i : Instr}
    (hc : opcodeTable[k].covers (encode i) = true) (hi : opcodeTable[k].command (encode i) = i) :
    EncodeInTable.Statement i := ⟨_, List.getElem_mem hk, hc, hi⟩

theorem EncodeInTable.gpioInit : EncodeInTable.Statement .gpioInit := by
  refine encodeInTable_of_row 0 (by decide) ((OpcodeRow.covers_ofFields (po := 0x1#8) (mo := 0xFF#8) (ma := 0xFF#8) (mb := 0xFF#8)
    (mc := 0xFF#8) (md := 0xFFFFFFFFFFFFFFFF#64) rfl rfl _ _ _ _ _).2 ?_) ?_
  · decide
  · rfl

theorem EncodeInTable.gpioCleanup : EncodeInTable.Statement .gpioCleanup := by
  refine encodeInTable_of_row 1 (by decide) ((OpcodeRow.covers_ofFields (po := 0x2#8) (mo := 0xFF#8) (ma := 0xFF#8) (mb := 0xFF#8)
    (mc := 0xFF#8) (md := 0xFFFFFFFFFFFFFFFF#64) rfl rfl _ _ _ _ _).2 ?_) ?_
  · decide
  · rfl

theorem EncodeInTable.pinMode (pin : BitVec 8) (mode : Mode) : EncodeInTable.Statement (.pinMode pin mode) := by
  refine encodeInTable_of_row 2 (by decide) ((OpcodeRow.covers_ofFields (po := 0x3#8) (mo := 0xFF#8) (ma := 0#8) (mb := 0xFF#8)
    (mc := 0xFE#8) (md := 0xFFFFFFFFFFFFFFFF#64) rfl rfl _ _ _ _ _).2 ?_) ?_
  · simp [Frame.bitField_and]
  · simp [opcodeTable, gpioRows, encode, Frame.mode]

theorem EncodeInTable.digitalWrite (pin : BitVec 8) (level : Level) : EncodeInTable.Statement (.digitalWrite pin level) := by
  refine encodeInTable_of_row 3 (by decide) ((OpcodeRow.covers_ofFields (po := 0x4#8) (mo := 0xFF#8) (ma := 0#8) (mb := 0xFF#8)
    (mc := 0xFE#8) (md := 0xFFFFFFFFFFFFFFFF#64) rfl rfl _ _ _ _ _).2 ?_) ?_
  · simp [Frame.bitField_and]
  · simp [opcodeTable, gpioRows, encode, Frame.level]

theorem EncodeInTable.digitalRead (pin : BitVec 8) : EncodeInTable.Statement (.digitalRead pin) := by
  refine encodeInTable_of_row 4 (by decide) ((OpcodeRow.covers_ofFields (po := 0x5#8) (mo := 0xFF#8) (ma := 0#8) (mb := 0xFF#8)
    (mc := 0xFF#8) (md := 0xFFFFFFFFFFFFFFFF#64) rfl rfl _ _ _ _ _).2 ?_) ?_
  · simp
  · simp [opcodeTable, gpioRows, clockRows, spwmRows, hpwmRows, encode]

theorem EncodeInTable.millis : EncodeInTable.Statement .millis := by
  refine encodeInTable_of_row 5 (by decide) ((OpcodeRow.covers_ofFields (po := 0x10#8) (mo := 0xFF#8) (ma := 0xFF#8) (mb := 0xFF#8)
    (mc := 0xFF#8) (md := 0xFFFFFFFFFFFFFFFF#64) rfl rfl _ _ _ _ _).2 ?_) ?_
  · decide
  · rfl

theorem EncodeInTable.timerSet (t : BitVec 8) (interval : BitVec 64) : EncodeInTable.Statement (.timerSet t interval) := by
  refine encodeInTable_of_row 6 (by decide) ((OpcodeRow.covers_ofFields (po := 0x11#8) (mo := 0xFF#8) (ma := 0#8) (mb := 0xFF#8)
    (mc := 0xFF#8) (md := 0#64) rfl rfl _ _ _ _ _).2 ?_) ?_
  · simp
  · simp [opcodeTable, gpioRows, clockRows, spwmRows, hpwmRows, encode]

theorem EncodeInTable.timerExpired (t : BitVec 8) : EncodeInTable.Statement (.timerExpired t) := by
  refine encodeInTable_of_row 7 (by decide) ((OpcodeRow.covers_ofFields (po := 0x12#8) (mo := 0xFF#8) (ma := 0#8) (mb := 0xFF#8)
    (mc := 0xFF#8) (md := 0xFFFFFFFFFFFFFFFF#64) rfl rfl _ _ _ _ _).2 ?_) ?_
  · simp
  · simp [opcodeTable, gpioRows, clockRows, spwmRows, hpwmRows, encode]

theorem EncodeInTable.timerTick (t : BitVec 8) : EncodeInTable.Statement (.timerTick t) := by
  refine encodeInTable_of_row 8 (by decide) ((OpcodeRow.covers_ofFields (po := 0x13#8) (mo := 0xFF#8) (ma := 0#8) (mb := 0xFF#8)
    (mc := 0xFF#8) (md := 0xFFFFFFFFFFFFFFFF#64) rfl rfl _ _ _ _ _).2 ?_) ?_
  · simp
  · simp [opcodeTable, gpioRows, clockRows, spwmRows, hpwmRows, encode]

theorem EncodeInTable.spwmCfg (ch pin : BitVec 8) (freq : BitVec 32) (duty : BitVec 17) : EncodeInTable.Statement (.spwmCfg ch pin freq duty) := by
  refine encodeInTable_of_row 9 (by decide) ((OpcodeRow.covers_ofFields (po := 0x20#8) (mo := 0xFF#8) (ma := 0#8) (mb := 0#8)
    (mc := 0xFF#8) (md := 0xFFFE000000000000#64) rfl rfl _ _ _ _ _).2 ?_) ?_
  · simp [Frame.freqDuty_and]
  · simp [opcodeTable, gpioRows, clockRows, spwmRows, hpwmRows, encode]

theorem EncodeInTable.spwmPoll (ch : BitVec 8) : EncodeInTable.Statement (.spwmPoll ch) := by
  refine encodeInTable_of_row 10 (by decide) ((OpcodeRow.covers_ofFields (po := 0x21#8) (mo := 0xFF#8) (ma := 0#8) (mb := 0xFF#8)
    (mc := 0xFF#8) (md := 0xFFFFFFFFFFFFFFFF#64) rfl rfl _ _ _ _ _).2 ?_) ?_
  · simp
  · simp [opcodeTable, gpioRows, clockRows, spwmRows, hpwmRows, encode]

theorem EncodeInTable.hpwmInit : EncodeInTable.Statement .hpwmInit := by
  refine encodeInTable_of_row 11 (by decide) ((OpcodeRow.covers_ofFields (po := 0x30#8) (mo := 0xFF#8) (ma := 0xFF#8) (mb := 0xFF#8)
    (mc := 0xFF#8) (md := 0xFFFFFFFFFFFFFFFF#64) rfl rfl _ _ _ _ _).2 ?_) ?_
  · decide
  · rfl

theorem EncodeInTable.hpwmCleanup : EncodeInTable.Statement .hpwmCleanup := by
  refine encodeInTable_of_row 12 (by decide) ((OpcodeRow.covers_ofFields (po := 0x31#8) (mo := 0xFF#8) (ma := 0xFF#8) (mb := 0xFF#8)
    (mc := 0xFF#8) (md := 0xFFFFFFFFFFFFFFFF#64) rfl rfl _ _ _ _ _).2 ?_) ?_
  · decide
  · rfl

theorem EncodeInTable.hpwmSet (ch : BitVec 8) (freq : BitVec 32) (duty : BitVec 17) : EncodeInTable.Statement (.hpwmSet ch freq duty) := by
  refine encodeInTable_of_row 13 (by decide) ((OpcodeRow.covers_ofFields (po := 0x32#8) (mo := 0xFF#8) (ma := 0#8) (mb := 0xFF#8)
    (mc := 0xFF#8) (md := 0xFFFE000000000000#64) rfl rfl _ _ _ _ _).2 ?_) ?_
  · simp [Frame.freqDuty_and]
  · simp [opcodeTable, gpioRows, clockRows, spwmRows, hpwmRows, encode]

theorem EncodeInTable.hpwmEnable (ch : BitVec 8) : EncodeInTable.Statement (.hpwmEnable ch) := by
  refine encodeInTable_of_row 14 (by decide) ((OpcodeRow.covers_ofFields (po := 0x33#8) (mo := 0xFF#8) (ma := 0#8) (mb := 0xFF#8)
    (mc := 0xFF#8) (md := 0xFFFFFFFFFFFFFFFF#64) rfl rfl _ _ _ _ _).2 ?_) ?_
  · simp
  · simp [opcodeTable, gpioRows, clockRows, spwmRows, hpwmRows, encode]

theorem EncodeInTable.hpwmDisable (ch : BitVec 8) : EncodeInTable.Statement (.hpwmDisable ch) := by
  refine encodeInTable_of_row 15 (by decide) ((OpcodeRow.covers_ofFields (po := 0x34#8) (mo := 0xFF#8) (ma := 0#8) (mb := 0xFF#8)
    (mc := 0xFF#8) (md := 0xFFFFFFFFFFFFFFFF#64) rfl rfl _ _ _ _ _).2 ?_) ?_
  · simp
  · simp [opcodeTable, gpioRows, clockRows, spwmRows, hpwmRows, encode]

end Sys2Proof.Laws
end

