-- ==== Sys2Proof/Laws/Step.lean ====
section
/-! SUPPORT. What a step does with each event, and all it can do. -/

namespace Sys2Proof.Machine

/-- A run of one step more. -/
theorem core_run_next {k : Nat} {s t : State} (h : step s = .next t) :
    Sys2Proof.core.run (k + 1) s = Sys2Proof.core.run k t := by
  have h' : Sys2Proof.core.step s = .next t := h
  simp only [Host.Core.run, h']

/-- A run that answers a next state makes its first step. -/
theorem core_run_inv {k : Nat} {s u : State} (h : Sys2Proof.core.run (k + 1) s = .next u) :
    ∃ t, step s = .next t ∧ Sys2Proof.core.run k t = .next u := by
  cases hs : step s with
  | next t => exact ⟨t, rfl, by rw [← core_run_next hs]; exact h⟩
  | fault f =>
    have h' : Sys2Proof.core.step s = .fault f := hs
    simp [Host.Core.run, h'] at h
  | refused r =>
    have h' : Sys2Proof.core.step s = .refused r := hs
    simp [Host.Core.run, h'] at h

theorem step_idle {s : State} (h : s.script = []) : step s = .next s.silent := by
  simp only [step, takeEvent, h]

theorem step_environment {s : State} {e : Env} {rest : List Event} (h : s.script = .environment e :: rest) :
    step s = .next (changeInputs (s.withScript rest) e) := by
  simp only [step, takeEvent, h]

theorem step_reset {s : State} {rest : List Event} (h : s.script = .reset :: rest) :
    step s = .next (takeReset (s.withScript rest)) := by
  simp only [step, takeEvent, h]

theorem step_command {s : State} {F : Frame} {rest : List Event} {i : Instr} (h : s.script = .command F :: rest)
    (hd : decode F = some i) : step s = exec i (s.withScript rest) := by
  simp only [step, takeEvent, h, hd]

theorem step_illegal {s : State} {F : Frame} {rest : List Event} (h : s.script = .command F :: rest)
    (hd : decode F = none) :
    step s = .next (if s.block.halted then (s.withScript rest).silent else (s.withScript rest).raise .illegalCommand) := by
  simp only [step, takeEvent, h, hd, illegalFrame]
  cases hh : s.block.halted
  · rw [command_running _ (by simpa using hh)]; rfl
  · rw [command_halted _ (by simpa using hh)]; rfl

/-- All a step can do when it answers a next state. -/
theorem step_cases {s t : State} (h : step s = .next t) :
    (s.script = [] ∧ t = s.silent) ∨
    (∃ e rest, s.script = .environment e :: rest ∧ t = changeInputs (s.withScript rest) e) ∨
    (∃ rest, s.script = .reset :: rest ∧ t = takeReset (s.withScript rest)) ∨
    (∃ F rest, s.script = .command F :: rest ∧ decode F = none ∧
      t = if s.block.halted then (s.withScript rest).silent else (s.withScript rest).raise .illegalCommand) ∨
    (∃ F rest i, s.script = .command F :: rest ∧ decode F = some i ∧ exec i (s.withScript rest) = .next t) := by
  match hs : s.script with
  | [] => rw [step_idle hs] at h; exact .inl ⟨rfl, by simpa using h.symm⟩
  | .environment e :: rest =>
    rw [step_environment hs] at h
    exact .inr (.inl ⟨e, rest, rfl, by simpa using h.symm⟩)
  | .reset :: rest =>
    rw [step_reset hs] at h
    exact .inr (.inr (.inl ⟨rest, rfl, by simpa using h.symm⟩))
  | .command F :: rest =>
    cases hd : decode F with
    | none =>
      rw [step_illegal hs hd] at h
      exact .inr (.inr (.inr (.inl ⟨F, rest, rfl, hd, by simpa using h.symm⟩)))
    | some i =>
      rw [step_command hs hd] at h
      exact .inr (.inr (.inr (.inr ⟨F, rest, i, rfl, hd, h⟩)))

/-! ### The end of a run -/

@[simp] theorem lastAnswered_nil : lastAnswered [] = true := rfl
@[simp] theorem lastAnswered_environment (e : Env) (rest : List Event) :
    lastAnswered (.environment e :: rest) = lastAnswered rest := rfl
@[simp] theorem lastAnswered_reset (rest : List Event) : lastAnswered (.reset :: rest) = true := rfl
@[simp] theorem lastAnswered_command (F : Frame) (rest : List Event) : lastAnswered (.command F :: rest) = false := rfl

/-- A run that has ended cleanly stays so at every step until the next reset. -/
theorem endedCleanly_step {s t : State} (h : s.EndedCleanly) (hs : step s = .next t) (hr : ∀ rest, s.script ≠ .reset :: rest) :
    t.EndedCleanly := by
  obtain ⟨he, hb⟩ := h
  obtain ⟨hn, rfl⟩ | ⟨e, rest, hn, rfl⟩ | ⟨rest, hn, -⟩ | ⟨F, rest, hn, -⟩ | ⟨F, rest, i, hn, -⟩ := step_cases hs
  · exact ⟨he, hb⟩
  · exact ⟨by simpa [hn] using he, hb⟩
  · exact absurd hn (hr rest)
  · simp [hn] at he
  · simp [hn] at he

end Sys2Proof.Machine
end

