-- ==== Sys2Proof/Laws/Shape.lean ====
section
/-! SUPPORT. What the bank writes leave of the block's shape: a write changes the contents of one file, never its length, and
every field it stores fits. -/

namespace Sys2Proof.Machine

theorem writeLines_params (s : State) (a : RegAddr) (v : BusWord) : (writeLines s a v).params = s.params := by
  cases a <;> simp [writeLines]

theorem writeLines_env (s : State) (a : RegAddr) (v : BusWord) : (writeLines s a v).env = s.env := by
  cases a <;> simp [writeLines]

theorem writeLines_script (s : State) (a : RegAddr) (v : BusWord) : (writeLines s a v).script = s.script := by
  cases a <;> simp [writeLines]

/-- A bank write leaves the flags, the timers and the channel records alone. -/
theorem writeLines_rest (s : State) (a : RegAddr) (v : BusWord) :
    (writeLines s a v).block.gpioMapped = s.block.gpioMapped ∧ (writeLines s a v).block.pwmMapped = s.block.pwmMapped ∧
    (writeLines s a v).block.halted = s.block.halted ∧ (writeLines s a v).block.timers = s.block.timers ∧
    (writeLines s a v).block.spwm = s.block.spwm := by
  cases a <;> simp [writeLines]

@[simp] theorem latches_length (s : State) (w : Nat) (v : BusWord) (l : Bool) :
    (latches s w v l).length = s.block.out.length := by simp [latches]

/-- A bank write keeps the length of every file. -/
theorem writeLines_shaped {s : State} (a : RegAddr) (v : BusWord) (h : s.block.Shaped s.params) :
    (writeLines s a v).block.Shaped (writeLines s a v).params := by
  obtain ⟨h₁, h₂, h₃, h₄, h₅, h₆, h₇⟩ := h
  cases a <;> refine ⟨?_, ?_, ?_, ?_, ?_, ?_, ?_⟩ <;> simp [writeLines] <;> assumption

/-- A bank write other than to a function-select word changes no function-select field. -/
theorem writeLines_fsel_eq (s : State) (a : RegAddr) (v : BusWord) (h : ∀ w, a ≠ .fsel w) :
    (writeLines s a v).block.fsel = s.block.fsel := by
  cases a <;> simp [writeLines] at h ⊢

/-- A bank write stores codes that fit. -/
theorem writeLines_codesFit {s : State} (a : RegAddr) (v : BusWord) (h : s.block.CodesFit s.params) :
    (writeLines s a v).block.CodesFit (writeLines s a v).params := by
  intro f hf
  rw [writeLines_params]
  by_cases hw : ∃ w, a = .fsel w
  · obtain ⟨w, rfl⟩ := hw
    obtain ⟨p, hp, rfl⟩ := List.mem_mapIdx.mp (show f ∈ s.block.fsel.mapIdx _ from hf)
    split
    · exact BusWord.field_toNat_lt _ _ _
    · exact h _ (List.getElem_mem hp)
  · rw [writeLines_fsel_eq s a v fun w hw' => hw ⟨w, hw'⟩] at hf
    exact h f hf

/-- A write to a set or clear word changes no function-select field. -/
@[simp] theorem withOut_codesFit (s : State) (v : List Bool) :
    (s.withOut v).block.CodesFit (s.withOut v).params ↔ s.block.CodesFit s.params := Iff.rfl

end Sys2Proof.Machine
end

