-- ==== Sys2Proof/Tests/Slice0.lean ====
section
/-! SUPPORT. Tests: the well-formedness checks refuse, the spec's own frames decode, single steps give the results of
95_test_vectors.md, and each statement's hypotheses are met by a concrete state. -/

namespace Sys2Proof.Tests

open Sys2Proof Sys2Proof.Machine

-- One test after another: each `decide +kernel` waits for the kernel, and waiting tests would each hold a thread.
set_option Elab.async false

/-! ### WellFormed refuses: one ill-formed term for each check -/

theorem test_default_valid : Config.default.Valid :=
  ⟨by decide, by decide, by decide, fun _ => ⟨by decide, by decide, forall_mem_of_all (by decide)⟩⟩

theorem test_npins_zero : ¬ ({ Config.default with npins := 0 } : Params).GpioShape := by decide
theorem test_npins_256 : ¬ ({ Config.default with npins := 256 } : Params).GpioShape := by decide
theorem test_fselBits_zero : ¬ ({ Config.default with fselBits := 0 } : Params).GpioShape := by decide
theorem test_fselPerWord_zero : ¬ ({ Config.default with fselPerWord := 0 } : Params).GpioShape := by decide
theorem test_fsel_too_wide : ¬ ({ Config.default with fselPerWord := 11 } : Params).GpioShape := by decide
theorem test_fselInput_wide : ¬ ({ Config.default with fselInput := 8#32 } : Params).GpioShape := by decide
theorem test_fselOutput_wide : ¬ ({ Config.default with fselOutput := 8#32 } : Params).GpioShape := by decide
theorem test_fsel_codes_equal : ¬ ({ Config.default with fselOutput := 0#32 } : Params).GpioShape := by decide
theorem test_levelPerWord_zero : ¬ ({ Config.default with levelPerWord := 0 } : Params).GpioShape := by decide
theorem test_levelPerWord_33 : ¬ ({ Config.default with levelPerWord := 33 } : Params).GpioShape := by decide
theorem test_ntimer_zero : ¬ ({ Config.default with ntimer := 0 } : Params).FileShape := by decide
theorem test_ntimer_257 : ¬ ({ Config.default with ntimer := 257 } : Params).FileShape := by decide
theorem test_nspwm_zero : ¬ ({ Config.default with nspwm := 0 } : Params).FileShape := by decide
theorem test_nspwm_257 : ¬ ({ Config.default with nspwm := 257 } : Params).FileShape := by decide
theorem test_nhpwm_zero : ¬ ({ Config.default with nhpwm := 0 } : Params).FileShape := by decide
theorem test_nhpwm_257 : ¬ ({ Config.default with nhpwm := 257 } : Params).FileShape := by decide
theorem test_baseHz_zero : ¬ ({ Config.default with pwmBaseHz := 0 } : Params).PwmShape := by decide
theorem test_divMin_zero : ¬ ({ Config.default with pwmDivMin := 0 } : Params).PwmShape := by decide
theorem test_div_empty : ¬ ({ Config.default with pwmDivMin := 4096 } : Params).PwmShape := by decide
theorem test_divMax_wide : ¬ ({ Config.default with pwmDivMax := 4294967296 } : Params).PwmShape := by decide
theorem test_periodMax_zero : ¬ ({ Config.default with pwmPeriodMax := 0 } : Params).PwmShape := by decide
theorem test_periodMax_wide : ¬ ({ Config.default with pwmPeriodMax := 4294967296 } : Params).PwmShape := by decide
theorem test_enBit_missing : ¬ ({ Config.default with pwmEnBit := [0] } : Params).PwmShape := by decide
theorem test_enBit_wide : ¬ ({ Config.default with pwmEnBit := [0, 32] } : Params).PwmShape := by decide
theorem test_enBit_twice : ¬ ({ Config.default with pwmEnBit := [8, 8] } : Params).PwmShape := by decide
theorem test_pwmPin_missing : ¬ ({ Config.default with pwmPin := [18] } : Params).AltShape :=
  fun h => absurd (h rfl).1.1 (by decide)
theorem test_pwmPin_out_of_range : ¬ ({ Config.default with pwmPin := [18, 54] } : Params).AltShape :=
  fun h => absurd (h rfl).1.2.1 (by decide)
theorem test_pwmPin_twice : ¬ ({ Config.default with pwmPin := [18, 18] } : Params).AltShape :=
  fun h => absurd (h rfl).1.2.2 (by decide)
theorem test_pwmAlt_missing : ¬ ({ Config.default with pwmAlt := [2#32] } : Params).AltShape :=
  fun h => absurd (h rfl).2.1 (by decide)
theorem test_pwmAlt_wide : ¬ ({ Config.default with pwmAlt := [8#32, 2#32] } : Params).AltShape :=
  fun h => absurd ((h rfl).2.2 8#32 (by decide)).1 (by decide)
theorem test_pwmAlt_input : ¬ ({ Config.default with pwmAlt := [0#32, 2#32] } : Params).AltShape :=
  fun h => absurd ((h rfl).2.2 0#32 (by decide)).2.1 (by decide)
theorem test_pwmAlt_output : ¬ ({ Config.default with pwmAlt := [1#32, 2#32] } : Params).AltShape :=
  fun h => absurd ((h rfl).2.2 1#32 (by decide)).2.2 (by decide)

/-- The first index outside each file, for each command that has an index (30_encoding.md R67). -/
theorem test_index_outside_file :
    ¬ (Instr.timerSet 4#8 0#64).WellFormed Config.default ∧ ¬ (Instr.timerExpired 4#8).WellFormed Config.default ∧
    ¬ (Instr.timerTick 4#8).WellFormed Config.default ∧ ¬ (Instr.spwmCfg 4#8 0#8 1#32 0#17).WellFormed Config.default ∧
    ¬ (Instr.spwmPoll 4#8).WellFormed Config.default ∧ ¬ (Instr.hpwmSet 2#8 1#32 0#17).WellFormed Config.default ∧
    ¬ (Instr.hpwmEnable 2#8).WellFormed Config.default ∧ ¬ (Instr.hpwmDisable 2#8).WellFormed Config.default := by decide

/-! ### Decode: the frames of 95_test_vectors.md section 2.1, written out there -/

theorem test_decode_gpioInit : decode 0x010000000000000000000000#96 = some .gpioInit := by decide +kernel
theorem test_decode_gpioCleanup : decode 0x020000000000000000000000#96 = some .gpioCleanup := by decide +kernel
theorem test_decode_pinMode_output : decode 0x031100010000000000000000#96 = some (.pinMode 17#8 .output) := by decide +kernel
theorem test_decode_pinMode_input : decode 0x030900000000000000000000#96 = some (.pinMode 9#8 .input) := by decide +kernel
theorem test_decode_digitalWrite_high : decode 0x041100010000000000000000#96 = some (.digitalWrite 17#8 .high) := by
  decide +kernel
theorem test_decode_digitalWrite_low : decode 0x041F00000000000000000000#96 = some (.digitalWrite 31#8 .low) := by
  decide +kernel
theorem test_decode_digitalRead : decode 0x05FF00000000000000000000#96 = some (.digitalRead 255#8) := by decide +kernel
theorem test_decode_millis : decode 0x100000000000000000000000#96 = some .millis := by decide +kernel
theorem test_decode_timerSet : decode 0x1100000000000000000001F4#96 = some (.timerSet 0#8 500#64) := by decide +kernel
theorem test_decode_timerSet_max :
    decode 0x11030000FFFFFFFFFFFFFFFF#96 = some (.timerSet 3#8 0xFFFFFFFFFFFFFFFF#64) := by decide +kernel
theorem test_decode_timerExpired : decode 0x120000000000000000000000#96 = some (.timerExpired 0#8) := by decide +kernel
theorem test_decode_timerTick : decode 0x130200000000000000000000#96 = some (.timerTick 2#8) := by decide +kernel
theorem test_decode_spwmCfg :
    decode 0x200012000000800000000064#96 = some (.spwmCfg 0#8 18#8 100#32 0x8000#17) := by decide +kernel
theorem test_decode_spwmPoll : decode 0x210000000000000000000000#96 = some (.spwmPoll 0#8) := by decide +kernel
theorem test_decode_hpwmInit : decode 0x300000000000000000000000#96 = some .hpwmInit := by decide +kernel
theorem test_decode_hpwmCleanup : decode 0x310000000000000000000000#96 = some .hpwmCleanup := by decide +kernel
theorem test_decode_hpwmSet : decode 0x320100000000133300000032#96 = some (.hpwmSet 1#8 50#32 0x1333#17) := by decide +kernel
theorem test_decode_hpwmSet_duty17 :
    decode 0x3200000000010001000001B8#96 = some (.hpwmSet 0#8 440#32 0x10001#17) := by decide +kernel
theorem test_decode_hpwmEnable : decode 0x330100000000000000000000#96 = some (.hpwmEnable 1#8) := by decide +kernel
theorem test_decode_hpwmDisable : decode 0x340000000000000000000000#96 = some (.hpwmDisable 0#8) := by decide +kernel

/-- The frames that 95_test_vectors.md section 2.1 refuses because no row matches them (30_encoding.md R66). -/
theorem test_decode_refuses :
    ∀ F ∈ [0x000000000000000000000000#96, 0x060000000000000000000000#96, 0xFFFFFFFFFFFFFFFFFFFFFFFF#96,
      0x010100000000000000000000#96, 0x031100020000000000000000#96, 0x031101010000000000000000#96,
      0x051100000000000000000001#96, 0x110001000000000000000064#96, 0x3200000000020000000003E8#96,
      0x200012010000800000000064#96], decode F = none := by
  simp only [List.forall_mem_cons, List.not_mem_nil, false_implies, implies_true, and_true]
  decide +kernel

/-- The table's own numbering: a frame is one word of 96 bits, bit 0 the least significant. -/
theorem test_decodeTableWord :
    decodeTableWord 96 0x041100010000000000000000 = some (.digitalWrite 17#8 .high) ∧
    decodeTableWord 97 0x041100010000000000000000 = none := by decide +kernel

/-! ### A state to step from, and how a test reads a result -/

/-- Reset with both banks mapped; pin 17 an output driving HIGH, pin 18 an output driving HIGH, every other pin an input; the
clock at 1000; channel 0 due in its HIGH-phase, 1 unconfigured, 2 steady LOW, 3 due in its LOW-phase. -/
def bench : State where
  params := Config.default
  block :=
    { gpioMapped := true
      pwmMapped := true
      halted := false
      timers := [⟨100#64, 1100#64⟩, ⟨150#64, 50#64⟩, ⟨0#64, 42#64⟩, ⟨100#64, 1000#64⟩]
      fsel := ((List.replicate 54 0#32).set 17 1#32).set 18 1#32
      out := ((List.replicate 54 false).set 17 true).set 18 true
      pwmCtl := 0#32
      pwmDiv := [1#32, 1#32]
      pwmRng := [19200#32, 384000#32]
      pwmDat := [9600#32, 28799#32]
      spwm := [⟨true, 18#8, 5#64, 5#64, true, ⟨5#64, 1000#64⟩⟩, Channel.unconfigured,
        ⟨true, 17#8, 0#64, 10#64, false, Timer.ones⟩, ⟨true, 17#8, 5#64, 5#64, false, ⟨5#64, 1000#64⟩⟩] }
  env := { Env.atLaunch with padIn := 0#256 }
  script := []
  draws := 0
  rsp := none

/-- `bench` with the whole function-select word 1 given: pins 10 to 19. -/
def benchFsel (codes : List Word) : State := bench.withFsel (List.replicate 10 0#32 ++ codes ++ List.replicate 34 0#32)

def noClock (s : State) : State := s.withEnv { s.env with clockOk := false }
def noGrants (s : State) : State := s.withEnv { s.env with mapGrantGpio := false, mapGrantPwm := false }
def unmapped (s : State) : State := (s.withGpioMapped false).withPwmMapped false

/-- The step of a frame, and whether its next state passes a check. -/
def after (F : Frame) (s : State) (check : State → Bool) : Bool :=
  match step (presentFrame s F) with
  | .next t => check t
  | .fault _ => false
  | .refused _ => false

/-- The response of a result. -/
def reply : Result → Option Response
  | .next t => t.rsp
  | .fault _ => none
  | .refused _ => none

theorem reply_next {r : Result} {x : Response} (h : reply r = some x) : ∃ t, r = .next t ∧ t.rsp = some x := by
  cases r with
  | next t => exact ⟨t, rfl, h⟩
  | fault f => simp [reply] at h
  | refused f => simp [reply] at h

/-- The lines 29 to 0 of function-select word 1, which all belong to pins. -/
def word1 (s : State) : Word := (readLines s (.fsel 1)).field 0 30

/-! ### One step of each instruction: 95_test_vectors.md sections 2.2 to 2.5 -/

theorem test_gpioInit_granted : after 0x010000000000000000000000#96 (unmapped bench) (fun t =>
    decide (t.rsp = some ⟨0#8, 0#64⟩ ∧ t.block = { bench.block with pwmMapped := false })) = true := by decide +kernel
theorem test_gpioInit_refused : after 0x010000000000000000000000#96 (noGrants (unmapped bench)) (fun t =>
    decide (t.rsp = some ⟨1#8, 0#64⟩ ∧ t.block.gpioMapped = false)) = true := by decide +kernel
theorem test_gpioCleanup_keeps_pins : after 0x020000000000000000000000#96 bench (fun t =>
    decide (t.rsp = some ⟨0#8, 0#64⟩ ∧ t.block = { bench.block with gpioMapped := false })) = true := by decide +kernel
theorem test_pinMode_input : after 0x031100000000000000000000#96 (benchFsel (List.replicate 10 7#32)) (fun t =>
    decide (t.rsp = some ⟨0#8, 0#64⟩ ∧ word1 t = 0x3F1FFFFF#32)) = true := by decide +kernel
theorem test_pinMode_beside_pwm :
    after 0x031100010000000000000000#96 (benchFsel (List.replicate 8 0#32 ++ [2#32, 2#32])) (fun t =>
      decide (t.rsp = some ⟨0#8, 0#64⟩ ∧ word1 t = 0x12200000#32)) = true := by decide +kernel
theorem test_digitalWrite_low : after 0x041100000000000000000000#96 bench (fun t =>
    decide (t.rsp = some ⟨0#8, 0#64⟩ ∧ t.block.out[17]? = some false ∧ t.block.out[18]? = some true)) = true := by
  decide +kernel
theorem test_digitalWrite_input_pin : after 0x041F00010000000000000000#96 bench (fun t =>
    decide (t.rsp = some ⟨4#8, 0#64⟩ ∧ t.block = bench.block)) = true := by decide +kernel
theorem test_digitalRead_output : after 0x051100000000000000000000#96 (noClock bench) (fun t =>
    decide (t.rsp = some ⟨0#8, 1#64⟩)) = true := by decide +kernel
/-- An input shows the pad, not the latch. -/
theorem test_digitalRead_input :
    after 0x051100000000000000000000#96 (bench.withFsel (List.replicate 54 0#32)) (fun t =>
      decide (t.rsp = some ⟨0#8, 0#64⟩)) = true := by decide +kernel
theorem test_millis_max : after 0x100000000000000000000000#96 (bench.atTime 0xFFFFFFFFFFFFFFFF#64) (fun t =>
    decide (t.rsp = some ⟨0#8, 0xFFFFFFFFFFFFFFFF#64⟩)) = true := by decide +kernel
theorem test_millis_halts : after 0x100000000000000000000000#96 (noClock bench) (fun t =>
    decide (t.rsp = none ∧ t.block = { bench.block with halted := true })) = true := by decide +kernel
theorem test_timerSet_wraps : after 0x110100000000000000000096#96 (bench.atTime 0xFFFFFFFFFFFFFF9C#64) (fun t =>
    decide (t.rsp = some ⟨0#8, 0#64⟩ ∧ t.block.timers[1]? = some ⟨150#64, 50#64⟩)) = true := by decide +kernel
theorem test_timerSet_index : after 0x110400000000000000000064#96 (noClock bench) (fun t =>
    decide (t.rsp = some ⟨6#8, 0#64⟩ ∧ t.block = bench.block)) = true := by decide +kernel
theorem test_timerExpired_early : after 0x120000000000000000000000#96 (bench.atTime 1099#64) (fun t =>
    decide (t.rsp = some ⟨0#8, 0#64⟩)) = true := by decide +kernel
/-- A plain `>=` would answer 1. -/
theorem test_timerExpired_wrapped : after 0x120100000000000000000000#96 (bench.atTime 0xFFFFFFFFFFFFFFFF#64) (fun t =>
    decide (t.rsp = some ⟨0#8, 0#64⟩)) = true := by decide +kernel
theorem test_timerTick_late : after 0x130000000000000000000000#96 (bench.atTime 1250#64) (fun t =>
    decide (t.rsp = some ⟨0#8, 1#64⟩ ∧ t.block.timers[0]? = some ⟨100#64, 1200#64⟩)) = true := by decide +kernel
theorem test_timerTick_early : after 0x130000000000000000000000#96 (bench.atTime 1099#64) (fun t =>
    decide (t.rsp = some ⟨0#8, 0#64⟩ ∧ t.block = bench.block)) = true := by decide +kernel
theorem test_spwmCfg_starts : after 0x200012000000800000000064#96 (bench.atTime 0#64) (fun t =>
    decide (t.rsp = some ⟨0#8, 0#64⟩ ∧
      t.block.spwm[0]? = some ⟨true, 18#8, 5#64, 5#64, true, ⟨5#64, 5#64⟩⟩)) = true := by decide +kernel
/-- `(1000 Hz, 0x7FFF)` gives `1, 0, 1`: the channel is steady LOW and its timer keeps what it held. -/
theorem test_spwmCfg_steady : after 0x2000120000007FFF000003E8#96 bench (fun t =>
    decide (t.rsp = some ⟨0#8, 0#64⟩ ∧ t.block.out[18]? = some false ∧
      t.block.spwm[0]? = some ⟨true, 18#8, 0#64, 1#64, false, ⟨5#64, 1000#64⟩⟩)) = true := by decide +kernel
theorem test_spwmPoll_early : after 0x210000000000000000000000#96 (bench.atTime 999#64) (fun t =>
    decide (t.rsp = some ⟨0#8, 1#64⟩ ∧ t.block = bench.block)) = true := by decide +kernel
theorem test_spwmPoll_due : after 0x210000000000000000000000#96 bench (fun t =>
    decide (t.rsp = some ⟨0#8, 2#64⟩ ∧ t.block.out[18]? = some false ∧
      t.block.spwm[0]? = some ⟨true, 18#8, 5#64, 5#64, false, ⟨5#64, 1005#64⟩⟩)) = true := by decide +kernel
theorem test_hpwmInit_granted : after 0x300000000000000000000000#96 (unmapped bench) (fun t =>
    decide (t.rsp = some ⟨0#8, 0#64⟩ ∧ t.block = { bench.block with gpioMapped := false })) = true := by decide +kernel
theorem test_hpwmCleanup_keeps_running : after 0x310000000000000000000000#96 (bench.withPwmCtl 1#32) (fun t =>
    decide (t.rsp = some ⟨0#8, 0#64⟩ ∧ t.block.pwmMapped = false ∧ t.block.pwmCtl = 1#32)) = true := by decide +kernel
theorem test_hpwmSet_rounds : after 0x320000000000800000000007#96 bench (fun t =>
    decide (t.rsp = some ⟨0#8, 0#64⟩ ∧ t.block.pwmDiv = [1#32, 1#32] ∧ t.block.pwmRng[0]? = some 2742857#32)) = true := by
  decide +kernel
theorem test_hpwmSet_unrepresentable : after 0x320000000000800001280540#96 bench (fun t =>
    decide (t.rsp = some ⟨5#8, 0#64⟩ ∧ t.block = bench.block)) = true := by decide +kernel
theorem test_hpwmEnable_second :
    after 0x330100000000000000000000#96
      ((benchFsel (List.replicate 8 0#32 ++ [2#32, 0#32])).withPwmCtl 1#32) (fun t =>
        decide (t.rsp = some ⟨0#8, 0#64⟩ ∧ word1 t = 0x12000000#32 ∧ t.block.pwmCtl = 0x101#32)) = true := by decide +kernel
theorem test_hpwmEnable_needs_gpio : after 0x330000000000000000000000#96 (bench.withGpioMapped false) (fun t =>
    decide (t.rsp = some ⟨2#8, 0#64⟩ ∧ t.block = { bench.block with gpioMapped := false })) = true := by decide +kernel
theorem test_hpwmDisable_keeps_other_bits :
    after 0x340100000000000000000000#96 (bench.withPwmCtl 0xFFFFFFFF#32) (fun t =>
      decide (t.rsp = some ⟨0#8, 0#64⟩ ∧ t.block.pwmCtl = 0xFFFFFEFF#32)) = true := by decide +kernel

/-- The example of 43_hw_pwm.md R144 with a small period register: the divider leaves 1. -/
theorem test_select_larger_divider : select { Config.default with pwmPeriodMax := 65535 } 1 = some (293, 65529) := by
  decide +kernel
/-- The schedule examples of 42_soft_pwm.md R122. -/
theorem test_schedule :
    schedule 3#32 0x5555#17 = ⟨333, 111, 222⟩ ∧ schedule 300#32 0x8000#17 = ⟨3, 2, 1⟩ ∧
    schedule 1000#32 0x8000#17 = ⟨1, 1, 0⟩ ∧ schedule 1000#32 0x7FFF#17 = ⟨1, 0, 1⟩ := by decide +kernel

/-- The frame reaches `step` as the host's numbering has it. -/
theorem test_withFetchWord : (match step (State.reset.withFetchWord 96 0x010000000000000000000000) with
    | .next t => decide (t.rsp = some ⟨0#8, 0#64⟩ ∧ t.block.gpioMapped = true)
    | .fault _ => false
    | .refused _ => false) = true := by decide +kernel

/-! ### Witnesses: a concrete state and operands that meet each statement's hypotheses, clause by clause -/

theorem bench_codesFit : bench.block.CodesFit bench.params := forall_mem_of_all (by decide +kernel)
theorem bench_sound : ∀ c ∈ bench.block.spwm, c.Sound bench.params := by decide +kernel
theorem bench_inv : bench.Inv := ⟨test_default_valid, by decide +kernel, bench_codesFit, bench_sound⟩

theorem test_witness_EncodeOfDecode : decode 0x200012000000800000000064#96 = some (.spwmCfg 0#8 18#8 100#32 0x8000#17) :=
  test_decode_spwmCfg
theorem test_witness_OpcodeRowsDisjoint :
    ∃ r ∈ opcodeTable, r.covers 0x0311000100000000000000000#96 = false ∧ r.covers 0x031100010000000000000000#96 = true :=
  ⟨_, List.getElem_mem (show 2 < opcodeTable.length by decide), by decide +kernel, by decide +kernel⟩
theorem test_witness_UncoveredFrameIsIllegal :
    (opcodeTable.all fun r => !r.covers 0x000000000000000000000000#96) = true ∧ bench.block.halted = false ∧
    (presentFrame bench 0x000000000000000000000000#96).script = [.command 0x000000000000000000000000#96] ∧
    Frame.op 0x060000000000000000000000#96 = 0x06#8 ∧
    (∃ r ∈ opcodeTable, Frame.op 0x031100020000000000000000#96 = r.pattern.op ∧
      0x031100020000000000000000#96 &&& r.mask ≠ r.pattern) :=
  ⟨by decide +kernel, rfl, rfl, by decide +kernel,
    _, List.getElem_mem (show 2 < opcodeTable.length by decide), by decide +kernel, by decide +kernel⟩
theorem test_witness_IndexOutsideFileIsIllegal :
    bench.block.halted = false ∧ ¬ (Instr.timerSet 4#8 0#64).WellFormed bench.params ∧
    ∃ t, exec (.spwmPoll 4#8) bench = .next t ∧ t.rsp = some ⟨6#8, 0#64⟩ :=
  ⟨rfl, by decide +kernel, reply_next (by decide +kernel)⟩
theorem test_witness_StepRunsDecodedCommand :
    (presentFrame bench 0x041100010000000000000000#96).script = [.command 0x041100010000000000000000#96] ∧
    decode 0x041100010000000000000000#96 = some (.digitalWrite 17#8 .high) := ⟨rfl, test_decode_digitalWrite_high⟩
theorem test_witness_NothingAdvancesBetweenCommands :
    bench.script = [] ∧ (bench.withScript [.environment Env.atLaunch]).script = [.environment Env.atLaunch] := ⟨rfl, rfl⟩
theorem test_witness_ResetInputClearsFlags : (bench.withScript [.reset]).script = [.reset] := rfl
theorem reset_launch : State.reset.Launch :=
  ⟨test_default_valid, by decide +kernel, forall_mem_of_all (by decide +kernel), rfl, rfl, rfl, by decide +kernel⟩
theorem test_witness_LaunchStatesMeetInvariant : State.reset.Launch := reset_launch
theorem test_witness_StepKeepsInvariant :
    (presentFrame bench 0x210000000000000000000000#96).Inv ∧
    ∃ t, step (presentFrame bench 0x210000000000000000000000#96) = .next t ∧ t.rsp = some ⟨0#8, 2#64⟩ :=
  ⟨bench_inv, reply_next (by decide +kernel)⟩
theorem test_witness_StepNeverStops : (bench.withScript [.reset]).Inv := bench_inv
theorem test_witness_LegalTripleStaysLegal : bench.Inv ∧ TripleOk bench 1 ∧
    ∃ t, exec (.hpwmSet 1#8 1000#32 0x8000#17) bench = .next t ∧ t.rsp = some ⟨0#8, 0#64⟩ :=
  ⟨bench_inv, ⟨⟨1#32, 384000#32, 28799#32, false⟩, by decide +kernel, by decide +kernel⟩, reply_next (by decide +kernel)⟩
theorem test_witness_FailedCommandChangesNothing :
    ∃ t, exec (.pinMode 54#8 .output) bench = .next t ∧ t.rsp = some ⟨3#8, 0#64⟩ := reply_next (by decide +kernel)
theorem test_witness_AnswersCarryListedCodes : bench.block.halted = false ∧
    (∃ t, exec (.digitalRead 255#8) bench = .next t ∧ t.rsp = some ⟨3#8, 0#64⟩) ∧
    ∃ t, exec (.timerExpired 3#8) bench = .next t ∧ t.rsp = some ⟨0#8, 1#64⟩ :=
  ⟨rfl, reply_next (by decide +kernel), reply_next (by decide +kernel)⟩
theorem test_witness_HaltedBlockStaysSilent :
    (presentFrame (bench.withHalted true) 0x100000000000000000000000#96).block.halted = true ∧
    (presentFrame (bench.withHalted true) 0x100000000000000000000000#96).script = [.command 0x100000000000000000000000#96] ∧
    Event.command 0x100000000000000000000000#96 ≠ .reset := ⟨rfl, rfl, by simp⟩
theorem test_witness_ClockLossHalts :
    (noClock (unmapped bench)).block.halted = false ∧ (noClock (unmapped bench)).env.clockOk = false ∧
    (Instr.timerTick 3#8).WellFormed (noClock (unmapped bench)).params ∧ samplesClock (.timerTick 3#8) = true := by
  decide +kernel
theorem test_witness_OnlyClockLossSilences : (noClock bench).block.halted = false ∧
    ∃ t, exec .millis (noClock bench) = .next t ∧ (t.block.halted = true ∨ t.rsp = none) :=
  ⟨rfl, _, rfl, .inl rfl⟩
theorem test_witness_OtherCommandsIgnoreTheClock : samplesClock (.digitalRead 17#8) = false ∧
    ∃ t, exec (.digitalRead 17#8) bench = .next t ∧ t.rsp = some ⟨0#8, 1#64⟩ := ⟨rfl, reply_next (by decide +kernel)⟩

/-- Two `MILLIS` in the same millisecond. -/
def twoMillis : State := bench.withScript [.command (encode .millis), .command (encode .millis)]

theorem test_witness_MillisNeverDecreases :
    twoMillis.script = .command (encode .millis) :: ([] ++ [.command (encode .millis)]) ∧
    ClockLaw twoMillis.params none twoMillis.env.nowMs twoMillis.script ∧
    (∃ t, step twoMillis = .next t ∧ t.rsp = some ⟨0#8, 1000#64⟩) ∧
    ∃ u, Sys2Proof.core.run 2 twoMillis = .next u ∧ u.rsp = some ⟨0#8, 1000#64⟩ := by
  have hw : ∃ i, decode (encode .millis) = some i ∧ i.WellFormed twoMillis.params ∧ samplesClock i = true :=
    ⟨.millis, by decide +kernel, trivial, rfl⟩
  obtain ⟨t, ht, hr⟩ : ∃ t, step twoMillis = .next t ∧ t.rsp = some ⟨0#8, 1000#64⟩ := reply_next (by decide +kernel)
  refine ⟨rfl, ⟨fun _ => ⟨by simp, ⟨fun _ => ⟨by simp, trivial⟩, fun h => absurd hw h⟩⟩, fun h => absurd hw h⟩, ⟨t, ht, hr⟩, ?_⟩
  exact reply_next (r := Sys2Proof.core.run 2 twoMillis) (by decide +kernel)

theorem test_witness_CommandsKeepTheirSurroundings :
    ∃ t, exec (.digitalWrite 17#8 .low) bench = .next t ∧ t.rsp = some ⟨0#8, 0#64⟩ := reply_next (by decide +kernel)
theorem test_witness_BitIsolation : bench.Inv ∧
    (∃ t, exec (.pinMode 18#8 .input) bench = .next t ∧ t.rsp = some ⟨0#8, 0#64⟩) ∧
    touchedPin bench (.pinMode 18#8 .input) ≠ some 17 ∧ touchedPin bench (.spwmPoll 0#8) ≠ some 17 :=
  ⟨bench_inv, reply_next (by decide +kernel), by decide +kernel, by decide +kernel⟩
theorem test_witness_TimerSlotsAreIndependent :
    ∃ t, exec (.timerTick 2#8) bench = .next t ∧ t.rsp = some ⟨0#8, 1#64⟩ ∧ (2#8).toNat ≠ 3 := by
  obtain ⟨t, h, hr⟩ := reply_next (r := exec (.timerTick 2#8) bench) (x := ⟨0#8, 1#64⟩) (by decide +kernel)
  exact ⟨t, h, hr, by decide⟩
theorem test_witness_ChannelRecordsAreIndependent :
    (∃ t, exec (.spwmPoll 3#8) bench = .next t ∧ t.rsp = some ⟨0#8, 3#64⟩) ∧ (3#8).toNat ≠ 0 ∧
    bench.block.spwm[3]? = some ⟨true, 17#8, 5#64, 5#64, false, ⟨5#64, 1000#64⟩⟩ :=
  ⟨reply_next (by decide +kernel), by decide, rfl⟩
theorem test_witness_MappingFlagsChangeOnlyByInitAndCleanup :
    ∃ t, exec (.hpwmDisable 1#8) bench = .next t ∧ t.rsp = some ⟨0#8, 0#64⟩ := reply_next (by decide +kernel)
theorem test_witness_PwmBankChangesOnlyByItsCommands : needsPwmBank .hpwmCleanup = false ∧
    ∃ t, exec .hpwmCleanup bench = .next t ∧ t.rsp = some ⟨0#8, 0#64⟩ := ⟨rfl, reply_next (by decide +kernel)⟩
/-- The last word and its last pin, 53. -/
theorem test_witness_FselWordReadsBack : bench.Inv ∧ (∃ t, memWrite bench (.fsel 5) (BusWord.ofWord 0x200#32) = .ok t) ∧
    fselWord bench.params 53 = 5 ∧ 2 < bench.params.fselBits ∧ fselWord bench.params 49 ≠ 5 :=
  ⟨bench_inv, ⟨_, memWrite_ok (by decide +kernel) (by decide +kernel)⟩, by decide +kernel, by decide +kernel, by decide +kernel⟩
theorem test_witness_SetAndClearTouchOnlyOutputs :
    (∃ t, memWrite bench (.set 1) (BusWord.bit 21) = .ok t) ∧ (∃ t, memWrite bench (.clr 0) (BusWord.bit 17) = .ok t) ∧
    bench.block.out[53]? = some false ∧ bench.block.out[17]? = some true :=
  ⟨⟨_, memWrite_ok (by decide +kernel) (by decide +kernel)⟩, ⟨_, memWrite_ok (by decide +kernel) (by decide +kernel)⟩,
    by decide +kernel, by decide +kernel⟩
/-- The last pin of word 0 among the outputs, and the first and the last input of word 1. -/
theorem test_witness_LevelRegisterShowsPins : bench.Inv ∧ bench.block.gpioMapped = true ∧ 1 < bench.params.nlev ∧
    levelWord bench.params 18 = 0 ∧ bench.block.fsel[18]? = some bench.params.fselOutput ∧
    levelWord bench.params 32 = 1 ∧ levelWord bench.params 53 = 1 ∧ bench.block.out[53]? = some false ∧
    bench.block.fsel[53]? = some bench.params.fselInput := ⟨bench_inv, by decide +kernel⟩
theorem test_witness_PwmRegistersAreStorage : bench.Inv ∧ bench.block.pwmMapped = true ∧ 1 < bench.params.nhpwm :=
  ⟨bench_inv, by decide +kernel⟩

theorem test_witness_UnmappedBankIsRejected :
    (unmapped bench).block.halted = false ∧ (Instr.spwmPoll 3#8).WellFormed bench.params ∧
    ClockServes (.spwmPoll 3#8) (unmapped bench) ∧ needsGpioBank bench.params (.spwmPoll 3#8) = true ∧
    (unmapped bench).block.gpioMapped = false ∧ needsPwmBank (.hpwmDisable 1#8) = true ∧
    (unmapped bench).block.pwmMapped = false ∧ (Instr.hpwmDisable 1#8).WellFormed bench.params := by decide +kernel
/-- The first and the last pin number that is not a pin. -/
theorem test_witness_BadPinIsRejected : bench.block.halted = false ∧ bench.block.gpioMapped = true ∧
    (Instr.spwmCfg 3#8 255#8 0#32 0#17).WellFormed bench.params ∧ ClockServes (.spwmCfg 3#8 255#8 0#32 0#17) bench ∧
    pinOperand (.spwmCfg 3#8 255#8 0#32 0#17) = some 255#8 ∧ pinOperand (.digitalRead 54#8) = some 54#8 ∧
    bench.params.npins ≤ (54#8).toNat := by decide +kernel
theorem test_witness_BadConfigurationIsRejected : bench.block.halted = false ∧ (3#8).toNat < bench.params.nspwm ∧
    bench.env.clockOk = true ∧ bench.block.gpioMapped = true ∧ (53#8).toNat < bench.params.npins ∧
    65536 < (65537#17).toNat ∧ (0#32).toNat = 0 ∧ 1000 < (1001#32).toNat ∧ (1#8).toNat < bench.params.nhpwm ∧
    bench.block.pwmMapped = true ∧ select bench.params (19400000#32).toNat = none ∧
    bench.block.spwm[(1#8).toNat]? = some Channel.unconfigured ∧ Channel.unconfigured.cfg = false := by decide +kernel
/-- An input pin for the first two clauses; for the poll, a due channel whose pin is on an alternate function. -/
theorem test_witness_NonOutputPinIsRejected : bench.Inv ∧ bench.block.halted = false ∧ bench.block.gpioMapped = true ∧
    bench.env.clockOk = true ∧ bench.block.fsel[(53#8).toNat]? = some 0#32 ∧ 0#32 ≠ bench.params.fselOutput ∧
    (3#8).toNat < bench.params.nspwm ∧ (65536#17).toNat ≤ 65536 ∧ (1000#32).toNat ≠ 0 ∧ (1000#32).toNat ≤ 1000 ∧
    (∃ t, exec (.digitalRead 53#8) bench = .next t ∧ t.rsp = some ⟨0#8, 0#64⟩) :=
  ⟨bench_inv, by decide +kernel, by decide +kernel, by decide +kernel, by decide +kernel, by decide +kernel, by decide +kernel,
    by decide +kernel, by decide +kernel, by decide +kernel, reply_next (by decide +kernel)⟩

/-- `bench` with pin 18 on the alternate function that carries channel 0. -/
def benchAlt : State := bench.withFsel (bench.block.fsel.set 18 2#32)

theorem benchAlt_inv : benchAlt.Inv :=
  ⟨test_default_valid, by decide +kernel, forall_mem_of_all (by decide +kernel), bench_sound⟩
theorem test_witness_NonOutputPinIsRejected_poll : benchAlt.Inv ∧
    benchAlt.block.spwm[(0#8).toNat]? = some ⟨true, 18#8, 5#64, 5#64, true, ⟨5#64, 1000#64⟩⟩ ∧
    (5#64 : Time) ≠ 0#64 ∧ reached benchAlt.env.nowMs 1000#64 = true ∧
    benchAlt.block.fsel[(18#8).toNat]? = some 2#32 ∧ 2#32 ≠ benchAlt.params.fselOutput :=
  ⟨benchAlt_inv, by decide +kernel, by decide +kernel, by decide +kernel, by decide +kernel, by decide +kernel⟩

theorem test_witness_MillisReturnsNow : bench.block.halted = false ∧ bench.env.clockOk = true ∧
    (noClock bench).block.halted = false ∧ (noClock bench).env.clockOk = false := by decide +kernel
theorem test_witness_TimerSetArmsSlot : bench.block.halted = false ∧ (3#8).toNat < bench.params.ntimer ∧
    bench.block.timers.length = bench.params.ntimer ∧ bench.env.clockOk = true := by decide +kernel
theorem test_witness_TimerExpiredTestsDeadline : bench.block.halted = false ∧ (3#8).toNat < bench.params.ntimer ∧
    bench.block.timers[(3#8).toNat]? = some ⟨100#64, 1000#64⟩ ∧ bench.env.clockOk = true := by decide +kernel
/-- Slot 3 is reached at its own instant; slot 0 is not. -/
theorem test_witness_TimerTickRearmsOnce :
    bench.block.timers[(3#8).toNat]? = some ⟨100#64, 1000#64⟩ ∧ reached bench.env.nowMs 1000#64 = true ∧
    bench.block.timers[(0#8).toNat]? = some ⟨100#64, 1100#64⟩ ∧ reached bench.env.nowMs 1100#64 = false ∧
    bench.block.halted = false ∧ bench.env.clockOk = true ∧ (3#8).toNat < bench.params.ntimer := by decide +kernel
/-- The largest distances of the two agreements. -/
theorem test_witness_ReachedAgreesWithGe :
    (1#64).toNat ≤ (0x8000000000000000#64).toNat ∧ (0x8000000000000000#64).toNat - (1#64).toNat < 2 ^ 63 ∧
    (0#64).toNat < (0x8000000000000000#64).toNat ∧ (0x8000000000000000#64).toNat - (0#64).toNat ≤ 2 ^ 63 := by decide +kernel
/-- The largest interval the statement admits, and an instant just before its deadline. -/
theorem test_witness_TimerExpiresAfterItsInterval : bench.block.halted = false ∧ (3#8).toNat < bench.params.ntimer ∧
    bench.block.timers.length = bench.params.ntimer ∧ bench.env.clockOk = true ∧
    (0x8000000000000000#64).toNat ≤ 2 ^ 63 ∧ (0x80000000000003E7#64 - bench.env.nowMs).toNat < 2 ^ 63 := by decide +kernel
theorem test_witness_ZeroIntervalFiresForEver : bench.block.halted = false ∧ (3#8).toNat < bench.params.ntimer ∧
    bench.block.timers.length = bench.params.ntimer ∧ bench.env.clockOk = true ∧
    (bench.env.nowMs - bench.env.nowMs).toNat < 2 ^ 63 := by decide +kernel
/-- The source's example: armed at 1000 for 100, first polled at 1250. -/
theorem test_witness_MissedIntervalsAreReplayed : (bench.atTime 1250#64).block.halted = false ∧
    (0#8).toNat < bench.params.ntimer ∧ (bench.atTime 1250#64).env.clockOk = true ∧
    (bench.atTime 1250#64).block.timers[(0#8).toNat]? = some ⟨100#64, 1000#64 + 100#64⟩ ∧ 1 ≤ (100#64).toNat ∧
    50 < (100#64).toNat ∧ (bench.atTime 1250#64).env.nowMs.toNat = (1000#64).toNat + 2 * (100#64).toNat + 50 ∧
    (1000#64).toNat + (2 + 1) * (100#64).toNat < 2 ^ 64 ∧ (2 + 1) * (100#64).toNat ≤ 2 ^ 63 := by decide +kernel
theorem test_witness_InitMapsItsBank : bench.block.halted = false ∧ bench.block.gpioMapped = true ∧
    bench.block.pwmMapped = true ∧ (unmapped bench).block.gpioMapped = false ∧ (unmapped bench).block.pwmMapped = false ∧
    (unmapped bench).env.mapGrantGpio = true ∧ (unmapped bench).env.mapGrantPwm = true ∧
    (noGrants (unmapped bench)).env.mapGrantGpio = false ∧ (noGrants (unmapped bench)).env.mapGrantPwm = false := by
  decide +kernel
theorem test_witness_CleanupClearsOnlyItsFlag : bench.block.halted = false ∧ lastAnswered bench.script = true ∧
    lastAnswered (bench.withScript [.environment Env.atLaunch]).script = true := by decide +kernel
/-- Input changes and the next reset leave a run ended, a command to come does not (70_reset_and_hazards.md R201). -/
theorem test_lastAnswered : lastAnswered [.environment Env.atLaunch] = true ∧
    lastAnswered [.environment Env.atLaunch, .reset, .command (encode .millis)] = true ∧
    lastAnswered [.environment Env.atLaunch, .command (encode .millis)] = false := ⟨rfl, rfl, rfl⟩
theorem test_witness_ReinitKeepsEveryPin : bench.block.halted = false ∧ bench.env.mapGrantGpio = true := by decide +kernel
theorem test_witness_PinModeWritesOneField : bench.Inv ∧ (unmapped bench).Inv ∧ bench.block.halted = false ∧
    (unmapped bench).block.gpioMapped = false ∧ bench.block.gpioMapped = true ∧ bench.params.npins ≤ (54#8).toNat ∧
    (53#8).toNat < bench.params.npins := ⟨bench_inv, bench_inv, by decide +kernel⟩
theorem test_witness_DigitalWriteSetsOneLatch : bench.Inv ∧ bench.block.halted = false ∧ bench.block.gpioMapped = true ∧
    bench.block.fsel[(18#8).toNat]? = some bench.params.fselOutput := ⟨bench_inv, by decide +kernel⟩
theorem test_witness_DigitalReadReturnsLevel : bench.Inv ∧ bench.block.halted = false ∧ bench.block.gpioMapped = true ∧
    bench.block.fsel[(53#8).toNat]? = some bench.params.fselInput ∧ bench.block.out[(53#8).toNat]? = some false ∧
    bench.block.fsel[(18#8).toNat]? = some bench.params.fselOutput ∧ bench.block.out[(18#8).toNat]? = some true :=
  ⟨bench_inv, by decide +kernel⟩
theorem test_witness_ReadReturnsLastWrite : bench.Inv ∧ bench.block.halted = false ∧
    ∃ t, exec (.digitalWrite 18#8 .low) bench = .next t ∧ t.rsp = some ⟨0#8, 0#64⟩ ∧ t.Inv ∧ t.block.halted = false ∧
      t.block.gpioMapped = true := by
  have hw : exec (.digitalWrite 18#8 .low) bench = .next ((bench.withOut (bench.block.out.set 18 false)).answer 0#64) := by
    have hd := digitalWriteTo_eq (s := bench) (p := 18) (f := 1#32) false test_default_valid.1 rfl (by decide +kernel)
      (by decide +kernel) (by decide +kernel)
    rw [if_pos (by decide +kernel)] at hd
    have hp : requirePin bench 18#8 = .ok () := requirePin_ok (by decide +kernel)
    have hg : requireGpio bench = .ok () := requireGpio_ok rfl
    simp only [exec, execDigitalWrite, command_running _ (show bench.block.halted = false from rfl), hg, hp, act_bind_ok]
    have hd' : digitalWriteTo bench (18#8).toNat Level.low.toBit = .ok (bench.withOut (bench.block.out.set 18 false)) := hd
    rw [hd']
    rfl
  exact ⟨bench_inv, rfl, _, hw, rfl, ⟨test_default_valid, by decide +kernel, bench_codesFit, bench_sound⟩, rfl, rfl⟩
theorem test_witness_PadsFollowAtOnce : bench.Inv ∧ bench.block.halted = false ∧ bench.block.gpioMapped = true ∧
    (53#8).toNat < bench.params.npins ∧ bench.block.out[(53#8).toNat]? = some false ∧
    bench.block.fsel[(17#8).toNat]? = some bench.params.fselOutput ∧ bench.block.pwmMapped = true ∧
    bench.params.pwmNeedsAlt = true ∧ bench.params.pwmPin[(1#8).toNat]? = some 19 := ⟨bench_inv, by decide +kernel⟩
/-- The ends of the two ranges. -/
theorem test_witness_ScheduleFillsThePeriod :
    (65536#17).toNat ≤ 65536 ∧ (0#17).toNat = 0 ∧ (65536#17).toNat = 65536 ∧ (1#32).toNat ≠ 0 ∧ (1000#32).toNat ≤ 1000 := by
  decide +kernel
theorem test_witness_SpwmCfgStartsTheChannel : bench.Inv ∧ bench.block.halted = false ∧ bench.env.clockOk = true ∧
    bench.block.gpioMapped = true ∧
    bench.block.spwm[(3#8).toNat]? = some ⟨true, 17#8, 5#64, 5#64, false, ⟨5#64, 1000#64⟩⟩ ∧ (65536#17).toNat ≤ 65536 ∧
    (1000#32).toNat ≠ 0 ∧ (1000#32).toNat ≤ 1000 ∧
    bench.block.fsel[(18#8).toNat]? = some bench.params.fselOutput := ⟨bench_inv, by decide +kernel⟩
/-- Steady (channel 2), not due (channel 0 at 999), and due at the instant itself (channel 0 at 1000). -/
theorem test_witness_SpwmPollMakesOneTransition : bench.Inv ∧ bench.block.halted = false ∧ bench.env.clockOk = true ∧
    bench.block.gpioMapped = true ∧ bench.block.spwm[(2#8).toNat]? = some ⟨true, 17#8, 0#64, 10#64, false, Timer.ones⟩ ∧
    bench.block.spwm[(0#8).toNat]? = some ⟨true, 18#8, 5#64, 5#64, true, ⟨5#64, 1000#64⟩⟩ ∧
    reached (bench.atTime 999#64).env.nowMs 1000#64 = false ∧ reached bench.env.nowMs 1000#64 = true ∧
    bench.block.fsel[(18#8).toNat]? = some bench.params.fselOutput := ⟨bench_inv, by decide +kernel⟩
/-- The poll at 1000 toggles; 1004 is before the end of the phase entered, 1005 is its end. -/
theorem test_witness_PhaseLastsItsDuration : bench.Inv ∧ bench.block.halted = false ∧
    (∃ t, exec (.spwmPoll 0#8) bench = .next t ∧ t.rsp = some ⟨0#8, 2#64⟩) ∧ (2#64).getLsbD 1 = true ∧
    (1004#64 - bench.env.nowMs).toNat < 5 ∧ 5 ≤ (1005#64 - bench.env.nowMs).toNat ∧
    (1005#64 - bench.env.nowMs).toNat < 2 ^ 63 :=
  ⟨bench_inv, rfl, reply_next (by decide +kernel), by decide +kernel⟩
theorem test_witness_SteadyChannelNeverToggles : bench.Inv ∧ bench.block.halted = false ∧
    (∃ t, exec (.spwmCfg 3#8 18#8 1000#32 0x7FFF#17) bench = .next t ∧ t.rsp = some ⟨0#8, 0#64⟩) ∧
    (schedule 1000#32 0x7FFF#17).onMs = 0 ∧
    (∃ t, exec (.spwmCfg 3#8 18#8 1000#32 0x8000#17) bench = .next t ∧ t.rsp = some ⟨0#8, 0#64⟩) ∧
    (schedule 1000#32 0x8000#17).offMs = 0 :=
  ⟨bench_inv, rfl, reply_next (by decide +kernel), by decide +kernel, reply_next (by decide +kernel), by decide +kernel⟩
/-- A frequency that is represented and one that is not (43_hw_pwm.md R144). -/
theorem test_witness_SelectFindsSmallestDivider : Config.default.Valid ∧ 1 ≤ 19100000 ∧
    select Config.default 19100000 = some (1, 1) ∧ select Config.default 3000000 = none :=
  ⟨test_default_valid, by decide, by decide +kernel, by decide +kernel⟩
theorem test_witness_HpwmSetWritesTheTriple : bench.Inv ∧ bench.block.halted = false ∧ (1#8).toNat < bench.params.nhpwm ∧
    bench.block.pwmMapped = true ∧ (65536#17).toNat ≤ 65536 ∧ (19100000#32).toNat ≠ 0 ∧
    select bench.params (19100000#32).toNat = some (1, 1) := ⟨bench_inv, by decide +kernel⟩
/-- The default platform needs the alternate function; a platform that does not is the first clause's. -/
theorem test_witness_EnableAndDisableWriteOneBit : bench.Inv ∧ bench.block.halted = false ∧ bench.block.pwmMapped = true ∧
    bench.params.pwmEnBit[(1#8).toNat]? = some 8 ∧ bench.params.pwmNeedsAlt = true ∧ bench.block.gpioMapped = true ∧
    bench.params.pwmPin[(1#8).toNat]? = some 19 ∧ bench.params.pwmAlt[(1#8).toNat]? = some 2#32 ∧
    ({ bench with params := { bench.params with pwmNeedsAlt := false } } : State).Inv :=
  ⟨bench_inv, by decide +kernel, by decide +kernel, by decide +kernel, by decide +kernel, by decide +kernel, by decide +kernel,
    by decide +kernel, ⟨⟨by decide, by decide, by decide, by simp⟩, by decide +kernel, bench_codesFit, bench_sound⟩⟩
theorem test_witness_EnableBitsAreIndependent : bench.Inv ∧ bench.block.halted = false ∧
    (∃ t, exec (.hpwmEnable 1#8) bench = .next t ∧ t.rsp = some ⟨0#8, 0#64⟩) ∧
    (∃ t, exec (.hpwmDisable 0#8) bench = .next t ∧ t.rsp = some ⟨0#8, 0#64⟩) ∧ (0 : Nat) ≠ (1#8).toNat :=
  ⟨bench_inv, rfl, reply_next (by decide +kernel), reply_next (by decide +kernel), by decide⟩
theorem test_witness_EnabledWaveformMeetsRequest : bench.Inv ∧ bench.block.halted = false ∧
    ∃ t, exec (.hpwmSet 1#8 19100000#32 0x10000#17) bench = .next t ∧ t.rsp = some ⟨0#8, 0#64⟩ ∧
      ∃ u, exec (.hpwmEnable 1#8) t = .next u ∧ u.rsp = some ⟨0#8, 0#64⟩ := by
  obtain ⟨u, hu, hr⟩ := reply_next
    (r := execAll [.hpwmSet 1#8 19100000#32 0x10000#17, .hpwmEnable 1#8] bench) (x := ⟨0#8, 0#64⟩) (by decide +kernel)
  obtain ⟨t, ht, htr⟩ := reply_next (r := exec (.hpwmSet 1#8 19100000#32 0x10000#17) bench) (x := ⟨0#8, 0#64⟩)
    (by decide +kernel)
  simp only [execAll, ht] at hu
  cases he : exec (.hpwmEnable 1#8) t with
  | next v =>
    rw [he] at hu
    obtain rfl : v = u := by simpa using hu
    exact ⟨bench_inv, rfl, t, ht, htr, v, he, hr⟩
  | fault f => rw [he] at hu; simp at hu
  | refused f => rw [he] at hu; simp at hu

end Sys2Proof.Tests
end

section
/-! PROOF. Every step keeps `State.Inv` (O11): first the updates of the block that keep it, then the two channel records
that `SPWM_CFG` and `SPWM_POLL` store, then the completed commands, then a step. -/

namespace Sys2Proof.Machine

/-! ### Updates of the state -/

/-- The invariant speaks of the parameters and the block alone. -/
theorem State.Inv.congr {s t : State} (h : s.Inv) (hp : t.params = s.params) (hb : t.block = s.block) : t.Inv := by
  unfold State.Inv
  rw [hp, hb]
  exact h

theorem writeLines_inv {s : State} (a : RegAddr) (v : BusWord) (h : s.Inv) : (writeLines s a v).Inv := by
  obtain ⟨hvalid, hshape, hcodes, hsound⟩ := h
  obtain ⟨-, -, -, -, hspwm⟩ := writeLines_rest s a v
  refine ⟨?_, writeLines_shaped a v hshape, writeLines_codesFit a v hcodes, ?_⟩
  · rwa [writeLines_params]
  · rwa [writeLines_params, hspwm]

theorem memWrite_inv {s u : State} {a : RegAddr} {v : BusWord} (hu : memWrite s a v = .ok u) (h : s.Inv) : u.Inv := by
  rw [memWrite_eq_ok hu]
  exact writeLines_inv a v h

theorem setFsel_inv {s u : State} {p : Nat} {code : Word} (hu : setFsel s p code = .ok u) (h : s.Inv) : u.Inv := by
  obtain ⟨v, rfl⟩ := setFsel_eq_ok hu
  exact writeLines_inv _ v h

theorem digitalWriteTo_inv {s u : State} {p : Nat} {l : Bool} (hu : digitalWriteTo s p l = .ok u) (h : s.Inv) :
    u.Inv := by
  obtain ⟨_, -, hu⟩ := bind_ok hu
  obtain ⟨_, -, hu⟩ := bind_ok hu
  exact memWrite_inv hu h

theorem digitalWriteTo_params {s u : State} {p : Nat} {l : Bool} (hu : digitalWriteTo s p l = .ok u) :
    u.params = s.params := by
  rw [digitalWriteTo_eq_ok hu, State.withOut_params]

theorem routeChannel_inv {s u : State} {c : Nat} (hu : routeChannel s c = .ok u) (h : s.Inv) : u.Inv := by
  rw [routeChannel] at hu
  split at hu
  · obtain ⟨_, -, hu⟩ := bind_ok hu
    obtain ⟨_, -, hu⟩ := bind_ok hu
    obtain ⟨_, -, hu⟩ := bind_ok hu
    exact setFsel_inv hu h
  · obtain rfl : s = u := by simpa using hu
    exact h

theorem setTimer_inv {s : State} (t : BitVec 8) (v : Timer) (h : s.Inv) : (setTimer s t v).Inv := by
  obtain ⟨hvalid, ⟨htimers, hfiles⟩, hcodes, hsound⟩ := h
  exact ⟨hvalid, ⟨by simpa [setTimer] using htimers, hfiles⟩, hcodes, hsound⟩

theorem setChannel_inv {s : State} (ch : BitVec 8) {v : Channel} (hv : v.Sound s.params) (h : s.Inv) :
    (setChannel s ch v).Inv := by
  obtain ⟨hvalid, ⟨htimers, hfsel, hout, hdiv, hrng, hdat, hspwm⟩, hcodes, hsound⟩ := h
  refine ⟨hvalid, ⟨htimers, hfsel, hout, hdiv, hrng, hdat, by simpa [setChannel] using hspwm⟩, hcodes, fun c hc => ?_⟩
  rcases List.mem_or_eq_of_mem_set hc with hold | rfl
  · exact hsound c hold
  · exact hv

/-- Reset keeps the sizes and the banks, and leaves no channel configured. -/
theorem takeReset_inv {s : State} (h : s.Inv) : (takeReset s).Inv := by
  obtain ⟨hvalid, ⟨htimers, hfsel, hout, hdiv, hrng, hdat, hspwm⟩, hcodes, -⟩ := h
  refine ⟨hvalid, ⟨?_, hfsel, hout, hdiv, hrng, hdat, ?_⟩, hcodes, fun c hc hcfg => ?_⟩
  · simpa [resetBlock] using htimers
  · simpa [resetBlock] using hspwm
  · obtain ⟨k, -, rfl⟩ := List.mem_mapIdx.mp (show c ∈ s.block.spwm.mapIdx _ from hc)
    simp [freeChannel] at hcfg

/-! ### The channel records (42_soft_pwm.md R122 to R125) -/

theorem Channel.steady_eq_false {c : Channel} : c.steady = false ↔ c.onMs ≠ 0#64 ∧ c.offMs ≠ 0#64 := by
  simp [Channel.steady]

/-- A duty of at most `65536 / 65536` rounds to at most the whole period. -/
theorem roundHalfUp_duty_le {duty period : Nat} (h : duty ≤ 65536) : roundHalfUp (duty * period) 65536 ≤ period := by
  have hmul : duty * period ≤ 65536 * period := Nat.mul_le_mul_right period h
  unfold roundHalfUp
  omega

/-- A representable configuration has a period of 1 to 1000 ms, which its two phases divide. -/
theorem schedule_phases {freq : BitVec 32} {duty : BitVec 17} (h : softConfigOk freq duty = true) :
    1 ≤ (schedule freq duty).onMs + (schedule freq duty).offMs ∧
      (schedule freq duty).onMs + (schedule freq duty).offMs ≤ 1000 := by
  obtain ⟨hduty, hpos, hmax⟩ : duty.toNat ≤ 65536 ∧ freq.toNat ≠ 0 ∧ freq.toNat ≤ 1000 := by simpa [softConfigOk] using h
  have hon : (schedule freq duty).onMs ≤ 1000 / freq.toNat := roundHalfUp_duty_le hduty
  have hsum : (schedule freq duty).onMs + (schedule freq duty).offMs = 1000 / freq.toNat := Nat.add_sub_of_le hon
  rw [hsum]
  exact ⟨Nat.div_pos hmax (Nat.pos_of_ne_zero hpos), Nat.div_le_self 1000 freq.toNat⟩

/-- A duration below `2^64` is zero exactly when its word is. -/
theorem ofNat64_eq_zero {n : Nat} (h : n < 2 ^ 64) : BitVec.ofNat 64 n = 0#64 ↔ n = 0 := by
  rw [← BitVec.toNat_inj, BitVec.toNat_ofNat, Nat.mod_eq_of_lt h, BitVec.toNat_ofNat, Nat.zero_mod]

theorem startedChannel_sound {P : Params} {pin : BitVec 8} {sch : Schedule} (old : Channel) (now : Time)
    (hpin : pin.toNat < P.npins) (hmin : 1 ≤ sch.onMs + sch.offMs) (hmax : sch.onMs + sch.offMs ≤ 1000) :
    (startedChannel old pin sch now).Sound P := by
  have hon : BitVec.ofNat 64 sch.onMs = 0#64 ↔ sch.onMs = 0 := ofNat64_eq_zero (by omega)
  have hoff : BitVec.ofNat 64 sch.offMs = 0#64 ↔ sch.offMs = 0 := ofNat64_eq_zero (by omega)
  refine fun _ => ⟨hpin, ?_, fun h => ?_, fun h => ?_, fun h => ?_⟩
  · simp only [startedChannel, BitVec.toNat_ofNat]
    omega
  · simpa [startedChannel] using hon.mp h
  · have hzero := hoff.mp h
    exact decide_eq_true (show sch.onMs ≠ 0 by omega)
  · obtain ⟨h₁, h₂⟩ := Channel.steady_eq_false.mp h
    have hne : sch.onMs ≠ 0 ∧ sch.offMs ≠ 0 := ⟨mt hon.mpr h₁, mt hoff.mpr h₂⟩
    simp [startedChannel, hne, armed]

/-- A transition of a toggling channel arms the timer for the phase it enters. -/
theorem Channel.toggled_sound {P : Params} {c : Channel} (now : Time) (h : c.Sound P) (hcfg : c.cfg = true)
    (hsteady : c.steady = false) : (c.toggled now).Sound P := by
  obtain ⟨hpin, hlen, -, -, -⟩ := h hcfg
  obtain ⟨hon, hoff⟩ := Channel.steady_eq_false.mp hsteady
  refine fun _ => ⟨hpin, hlen, fun h₀ => absurd h₀ hon, fun h₀ => absurd h₀ hoff, fun _ => ?_⟩
  cases hphase : c.phase <;> simp [Channel.toggled, armed, hphase]

/-! ### Commands and steps -/

/-- A completed command leaves a state that meets the invariant. -/
theorem effect_inv {i : Instr} {s u : State} {d : Data} (h : s.Inv) (he : Effect s i d u) : u.Inv := by
  cases i with
  | gpioInit =>
    obtain ⟨-, rfl | rfl⟩ := he
    · exact h
    · exact h
  | gpioCleanup =>
    obtain ⟨-, rfl⟩ := he
    exact h
  | pinMode pin mode =>
    obtain ⟨-, -, -, hu⟩ := he
    exact setFsel_inv hu h
  | digitalWrite pin level =>
    obtain ⟨-, -, -, hu⟩ := he
    exact digitalWriteTo_inv hu h
  | digitalRead pin =>
    obtain ⟨rfl, -⟩ := he
    exact h
  | millis =>
    obtain ⟨-, rfl⟩ := he
    exact h
  | timerSet t interval =>
    obtain ⟨-, -, rfl⟩ := he
    exact setTimer_inv t _ h
  | timerExpired t =>
    obtain ⟨rfl, -⟩ := he
    exact h
  | timerTick t =>
    obtain ⟨slot, -, ⟨-, -, rfl⟩ | ⟨-, -, rfl⟩⟩ := he
    · exact setTimer_inv t _ h
    · exact h
  | spwmCfg ch pin freq duty =>
    obtain ⟨-, -, hpin, hok, old, v, -, hv, rfl⟩ := he
    obtain ⟨hmin, hmax⟩ := schedule_phases hok
    refine setChannel_inv ch ?_ (digitalWriteTo_inv hv h)
    rw [digitalWriteTo_params hv]
    exact startedChannel_sound old _ hpin hmin hmax
  | spwmPoll ch =>
    obtain ⟨-, c, hc, hcfg, ⟨-, rfl, -⟩ | ⟨hsteady, -, -, v, hv, rfl⟩⟩ := he
    · exact h
    · have ⟨_, _, _, hsound⟩ := h
      refine setChannel_inv ch ?_ (digitalWriteTo_inv hv h)
      rw [digitalWriteTo_params hv]
      exact Channel.toggled_sound _ (hsound c (List.mem_of_getElem? hc)) hcfg hsteady
  | hpwmInit =>
    obtain ⟨-, rfl | rfl⟩ := he
    · exact h
    · exact h
  | hpwmCleanup =>
    obtain ⟨-, rfl⟩ := he
    exact h
  | hpwmSet ch freq duty =>
    obtain ⟨-, -, -, -, -, div, period, s₁, s₂, -, hdiv, hrng, hdat⟩ := he
    exact memWrite_inv hdat (memWrite_inv hrng (memWrite_inv hdiv h))
  | hpwmEnable ch =>
    obtain ⟨-, -, -, v, b, old, hv, -, -, hu⟩ := he
    exact memWrite_inv hu (routeChannel_inv hv h)
  | hpwmDisable ch =>
    obtain ⟨-, -, -, b, old, -, -, hu⟩ := he
    exact memWrite_inv hu h

/-- A command keeps the invariant however it ends: silent, completed, with an error, or halted. -/
theorem exec_inv {i : Instr} {s t : State} (h : s.Inv) (ht : exec i s = .next t) : t.Inv := by
  obtain ⟨-, rfl⟩ | ⟨-, ⟨d, u, he, rfl⟩ | ⟨e, -, rfl⟩ | ⟨-, -, -, rfl⟩⟩ := exec_ends ht
  · exact h.congr rfl rfl
  · exact (effect_inv h he).congr rfl rfl
  · exact h.congr rfl rfl
  · exact h

/-- Settles O11: a case split on the event a step takes. -/
theorem stepKeepsInvariant : Obligations.StepKeepsInvariant := by
  intro s t h hs
  obtain ⟨-, rfl⟩ | ⟨e, rest, -, rfl⟩ | ⟨rest, -, rfl⟩ | ⟨F, rest, -, -, rfl⟩ | ⟨F, rest, i, -, -, ht⟩ := step_cases hs
  · exact h.congr rfl rfl
  · exact h.congr rfl rfl
  · exact takeReset_inv (h.congr rfl rfl)
  · split
    · exact h.congr rfl rfl
    · exact h.congr rfl rfl
  · exact exec_inv (s := s.withScript rest) (h.congr rfl rfl) ht

/-! ### What a step takes off the port -/

/-- Settles O7: the equation of a step whose frame decodes. -/
theorem stepRunsDecodedCommand : Obligations.StepRunsDecodedCommand :=
  fun _ _ _ _ hscript hdecode => step_command hscript hdecode

/-- Settles O8: the equations of an idle step and of a change of the inputs. -/
theorem nothingAdvancesBetweenCommands : Obligations.NothingAdvancesBetweenCommands :=
  ⟨fun _ hidle => step_idle hidle, fun _ _ _ hscript => step_environment hscript⟩

end Sys2Proof.Machine
end

section
/-! PROOF. The frame of a command (O13, O21, O23 to O26): all that a completed command may write of the block, said once in
`Written`; each statement is a case split on it. -/

namespace Sys2Proof.Machine

/-! ### The three registers that `HPWM_SET` writes (43_hw_pwm.md R143) -/

/-- The state after `HPWM_SET` has stored a divider, a period count and a duty count. -/
def storeTriple (s : State) (c div period duty : Nat) : State :=
  ((s.withPwmDiv (s.block.pwmDiv.set (divIndex s.params c) (BitVec.ofNat 32 div))).withPwmRng
    (s.block.pwmRng.set c (BitVec.ofNat 32 period))).withPwmDat (s.block.pwmDat.set c (BitVec.ofNat 32 duty))

/-- Three writes that go through leave the triple. -/
theorem storeTriple_of_writes {s s₁ s₂ u : State} {c div period duty : Nat} (hm : s.block.pwmMapped = true)
    (hc : c < s.params.nhpwm) (hdiv : writeNat s (.div c) div = .ok s₁) (hrng : writeNat s₁ (.rng c) period = .ok s₂)
    (hdat : writeNat s₂ (.dat c) duty = .ok u) : u = storeTriple s c div period duty := by
  have h := writeNat_triple (n₁ := div) (n₂ := period) (n₃ := duty) hm hc Except.ok
  simp only [hdiv, hrng, hdat, act_bind_ok] at h
  exact Except.ok.inj h

/-- `select` answers a divider and a period count of their ranges (43_hw_pwm.md R144). -/
theorem select_in_range {P : Params} {f d n : Nat} (h : select P f = some (d, n)) :
    (P.pwmDivMin ≤ d ∧ d ≤ P.pwmDivMax) ∧ 1 ≤ n ∧ n ≤ P.pwmPeriodMax := by
  obtain ⟨d', hmem, htry⟩ := List.exists_of_findSome?_eq_some h
  obtain ⟨heq, hmin, hmax, -⟩ := tryDivider_eq_some.mp htry
  obtain ⟨rfl, rfl⟩ : d = d' ∧ n = periodCount P f d' := by simpa using heq
  rw [List.mem_range'_1] at hmem
  exact ⟨by omega, hmin, hmax⟩

/-- A legal triple is a matter of the three register files: the enable bit plays no part (10_state.md R21). -/
theorem tripleOk_iff {s : State} {c : Nat} :
    TripleOk s c ↔ ∃ d r t, s.block.pwmDiv[divIndex s.params c]? = some d ∧ s.block.pwmRng[c]? = some r ∧
      s.block.pwmDat[c]? = some t ∧ (s.params.pwmDivMin ≤ d.toNat ∧ d.toNat ≤ s.params.pwmDivMax) ∧
      (1 ≤ r.toNat ∧ r.toNat ≤ s.params.pwmPeriodMax) ∧ t.toNat ≤ r.toNat := by
  constructor
  · rintro ⟨h, hh, hranges⟩
    obtain ⟨hd, hr, ht, -⟩ := hwChannel_eq_some.mp hh
    exact ⟨h.div, h.period, h.duty, hd, hr, ht, hranges⟩
  · rintro ⟨d, r, t, hd, hr, ht, hranges⟩
    exact ⟨⟨d, r, t, enabled s c⟩, hwChannel_eq_some.mpr ⟨hd, hr, ht, rfl⟩, hranges⟩

theorem TripleOk.congr {s t : State} {c : Nat} (h : TripleOk s c) (hp : t.params = s.params)
    (hd : t.block.pwmDiv = s.block.pwmDiv) (hr : t.block.pwmRng = s.block.pwmRng)
    (ht : t.block.pwmDat = s.block.pwmDat) : TripleOk t c := by
  rw [tripleOk_iff] at h ⊢
  rwa [hp, hd, hr, ht]

theorem toNat_ofNat32 {n : Nat} (h : n < 2 ^ 32) : (BitVec.ofNat 32 n).toNat = n := by
  rw [BitVec.toNat_ofNat, Nat.mod_eq_of_lt h]

theorem divIndex_lt {s : State} {c : Nat} (h : s.Inv) (hc : c < s.params.nhpwm) :
    divIndex s.params c < s.block.pwmDiv.length := by
  obtain ⟨-, ⟨-, -, -, hdiv, -⟩, -⟩ := h
  rw [hdiv, divIndex]
  split
  · exact Nat.one_pos
  · exact hc

/-- The triple that `HPWM_SET` stores for a selection is legal (10_state.md R21). -/
theorem storeTriple_self_ok {s : State} {c f div period : Nat} {duty : BitVec 17} (h : s.Inv) (hc : c < s.params.nhpwm)
    (hsel : select s.params f = some (div, period)) (hduty : duty.toNat ≤ 65536) :
    TripleOk (storeTriple s c div period (dutyCount duty period)) c := by
  have hindex := divIndex_lt h hc
  obtain ⟨⟨-, -, ⟨-, ⟨-, -, hdivMax⟩, ⟨-, hperiodMax⟩, -⟩, -⟩, ⟨-, -, -, -, hrng, hdat, -⟩, -⟩ := h
  obtain ⟨hdiv, hperiod⟩ := select_in_range hsel
  have hcount : dutyCount duty period ≤ period := roundHalfUp_duty_le hduty
  refine tripleOk_iff.mpr ⟨_, _, _, List.getElem?_set_self hindex, List.getElem?_set_self (by omega),
    List.getElem?_set_self (by omega), ?_⟩
  rw [toNat_ofNat32 (by omega), toNat_ofNat32 (by omega), toNat_ofNat32 (by omega)]
  exact ⟨hdiv, hperiod, hcount⟩

/-- Another channel's triple stays legal: at most its divider changes, to one of the same range. -/
theorem storeTriple_other_ok {s : State} {c k f div period duty : Nat} (h : s.Inv) (hk : c ≠ k)
    (hsel : select s.params f = some (div, period)) (hok : TripleOk s k) :
    TripleOk (storeTriple s c div period duty) k := by
  obtain ⟨⟨-, -, ⟨-, ⟨-, -, hdivMax⟩, -⟩, -⟩, -⟩ := h
  obtain ⟨hdiv, -⟩ := select_in_range hsel
  obtain ⟨d, r, t, hd, hr, ht, hdrange, hranges⟩ := tripleOk_iff.mp hok
  have hdiv' : ∃ d', (s.block.pwmDiv.set (divIndex s.params c) (BitVec.ofNat 32 div))[divIndex s.params k]? = some d' ∧
      s.params.pwmDivMin ≤ d'.toNat ∧ d'.toNat ≤ s.params.pwmDivMax := by
    by_cases hi : divIndex s.params c = divIndex s.params k
    · refine ⟨BitVec.ofNat 32 div, ?_, by rwa [toNat_ofNat32 (by omega)]⟩
      rw [hi, List.getElem?_set_self (List.getElem?_eq_some_iff.mp hd).1]
    · exact ⟨d, by rw [List.getElem?_set_ne hi, hd], hdrange⟩
  obtain ⟨d', hd', hdrange'⟩ := hdiv'
  exact tripleOk_iff.mpr ⟨d', r, t, hd', (List.getElem?_set_ne hk).trans hr, (List.getElem?_set_ne hk).trans ht, hdrange',
    hranges⟩

/-! ### What a completed command may write -/

/-- All the ways a completed command leaves the state, by the piece of the block it writes. -/
inductive Written (s : State) : Instr → State → Prop
  | nothing (i : Instr) : Written s i s
  | gpioFlag {i : Instr} (h : i = .gpioInit ∨ i = .gpioCleanup) (v : Bool) : Written s i (s.withGpioMapped v)
  | pwmFlag {i : Instr} (h : i = .hpwmInit ∨ i = .hpwmCleanup) (v : Bool) : Written s i (s.withPwmMapped v)
  | pinFunction (pin : BitVec 8) (mode : Mode) (codes : List Word) : Written s (.pinMode pin mode) (s.withFsel codes)
  | pinLatch (pin : BitVec 8) (level : Level) (out : List Bool) : Written s (.digitalWrite pin level) (s.withOut out)
  | timer {i : Instr} {j : BitVec 8} (h : (∃ v, i = .timerSet j v) ∨ i = .timerTick j) (slot : Timer) :
    Written s i (setTimer s j slot)
  | channel {i : Instr} {j : BitVec 8} (h : (∃ pin freq duty, i = .spwmCfg j pin freq duty) ∨ i = .spwmPoll j)
    {c : Channel} (hcfg : c.cfg = true) (out : List Bool) : Written s i (setChannel (s.withOut out) j c)
  | triple {ch : BitVec 8} {freq : BitVec 32} {duty : BitVec 17} {div period : Nat} (hch : ch.toNat < s.params.nhpwm)
    (hduty : duty.toNat ≤ 65536) (hsel : select s.params freq.toNat = some (div, period)) :
    Written s (.hpwmSet ch freq duty) (storeTriple s ch.toNat div period (dutyCount duty period))
  | enableBit {i : Instr} {ch : BitVec 8} (h : i = .hpwmEnable ch ∨ i = .hpwmDisable ch) (codes : List Word) (ctl : Word) :
    Written s i ((s.withFsel codes).withPwmCtl ctl)

/-- Routing a channel writes function-select fields and nothing else. -/
theorem routeChannel_eq_ok {s u : State} {c : Nat} (h : routeChannel s c = .ok u) : ∃ codes, u = s.withFsel codes := by
  rw [routeChannel] at h
  split at h
  · obtain ⟨_, -, h⟩ := bind_ok h
    obtain ⟨_, -, h⟩ := bind_ok h
    obtain ⟨_, -, h⟩ := bind_ok h
    obtain ⟨_, rfl⟩ := setFsel_eq_ok h
    exact ⟨_, rfl⟩
  · obtain rfl : s = u := by simpa using h
    exact ⟨_, rfl⟩

/-- Every completed command writes one piece of the block. -/
theorem effect_written {i : Instr} {s u : State} {d : Data} (he : Effect s i d u) : Written s i u := by
  cases i with
  | gpioInit =>
    obtain ⟨-, rfl | rfl⟩ := he
    · exact .nothing _
    · exact .gpioFlag (.inl rfl) true
  | gpioCleanup =>
    obtain ⟨-, rfl⟩ := he
    exact .gpioFlag (.inr rfl) false
  | pinMode pin mode =>
    obtain ⟨-, -, -, hu⟩ := he
    obtain ⟨_, rfl⟩ := setFsel_eq_ok hu
    exact .pinFunction pin mode _
  | digitalWrite pin level =>
    obtain ⟨-, -, -, hu⟩ := he
    rw [digitalWriteTo_eq_ok hu]
    exact .pinLatch pin level _
  | digitalRead pin =>
    obtain ⟨rfl, -⟩ := he
    exact .nothing _
  | millis =>
    obtain ⟨-, rfl⟩ := he
    exact .nothing _
  | timerSet t interval =>
    obtain ⟨-, -, rfl⟩ := he
    exact .timer (.inl ⟨interval, rfl⟩) _
  | timerExpired t =>
    obtain ⟨rfl, -⟩ := he
    exact .nothing _
  | timerTick t =>
    obtain ⟨slot, -, ⟨-, -, rfl⟩ | ⟨-, -, rfl⟩⟩ := he
    · exact .timer (.inr rfl) _
    · exact .nothing _
  | spwmCfg ch pin freq duty =>
    obtain ⟨-, -, -, -, old, v, -, hv, rfl⟩ := he
    rw [digitalWriteTo_eq_ok hv]
    exact .channel (.inl ⟨pin, freq, duty, rfl⟩) rfl _
  | spwmPoll ch =>
    obtain ⟨-, c, -, hcfg, ⟨-, rfl, -⟩ | ⟨-, -, -, v, hv, rfl⟩⟩ := he
    · exact .nothing _
    · rw [digitalWriteTo_eq_ok hv]
      exact .channel (.inr rfl) (c := c.toggled _) hcfg _
  | hpwmInit =>
    obtain ⟨-, rfl | rfl⟩ := he
    · exact .nothing _
    · exact .pwmFlag (.inl rfl) true
  | hpwmCleanup =>
    obtain ⟨-, rfl⟩ := he
    exact .pwmFlag (.inr rfl) false
  | hpwmSet ch freq duty =>
    obtain ⟨-, hch, hm, hduty, -, div, period, s₁, s₂, hsel, hdiv, hrng, hdat⟩ := he
    rw [storeTriple_of_writes hm hch hdiv hrng hdat]
    exact .triple hch hduty hsel
  | hpwmEnable ch =>
    obtain ⟨-, -, -, v, b, old, hv, -, -, hu⟩ := he
    obtain ⟨codes, rfl⟩ := routeChannel_eq_ok hv
    rw [memWrite_eq_ok hu]
    exact .enableBit (.inl rfl) codes _
  | hpwmDisable ch =>
    obtain ⟨-, -, -, b, old, -, -, hu⟩ := he
    rw [memWrite_eq_ok hu]
    exact .enableBit (.inr rfl) s.block.fsel _

/-- What a command leaves when it answers a next state: what a completed command may write, but for the halted flag. -/
theorem exec_written {i : Instr} {s t : State} (h : exec i s = .next t) :
    ∃ u b, Written s i u ∧ t.block = { u.block with halted := b } ∧ t.params = u.params ∧ t.env = u.env ∧
      t.script = u.script := by
  obtain ⟨-, rfl⟩ | ⟨-, ⟨d, u, he, rfl⟩ | ⟨e, -, rfl⟩ | ⟨-, -, -, rfl⟩⟩ := exec_ends h
  · exact ⟨s, s.block.halted, .nothing i, rfl, rfl, rfl, rfl⟩
  · exact ⟨u, u.block.halted, effect_written he, rfl, rfl, rfl, rfl⟩
  · exact ⟨s, s.block.halted, .nothing i, rfl, rfl, rfl, rfl⟩
  · exact ⟨s, true, .nothing i, rfl, rfl, rfl, rfl⟩

/-! ### The frame of a command -/

theorem Written.surroundings {i : Instr} {s u : State} (h : Written s i u) :
    u.params = s.params ∧ u.env = s.env ∧ u.script = s.script := by
  cases h <;> exact ⟨rfl, rfl, rfl⟩

/-- Settles O21. -/
theorem commandsKeepTheirSurroundings : Obligations.CommandsKeepTheirSurroundings := by
  intro i s t h
  obtain ⟨u, _, hw, -, hparams, henv, hscript⟩ := exec_written h
  rw [hparams, henv, hscript]
  exact hw.surroundings

/-- Settles O23: only the timer writes reach the timer file, and they store one slot. -/
theorem timerSlotsAreIndependent : Obligations.TimerSlotsAreIndependent := by
  intro i s t k h hset htick
  obtain ⟨u, _, hw, hb, -⟩ := exec_written h
  rw [hb]
  cases hw with
  | @timer _ j hi slot =>
    have hne : j.toNat ≠ k := by
      obtain ⟨v, rfl⟩ | rfl := hi
      · exact hset j v rfl
      · exact htick j rfl
    exact List.getElem?_set_ne hne
  | _ => rfl

/-- Only the commands of channel `k` write its record. -/
theorem Written.channel_eq {i : Instr} {s u : State} {k : Nat} (h : Written s i u)
    (hcfg : ∀ (j p : BitVec 8) (f : BitVec 32) (q : BitVec 17), i = .spwmCfg j p f q → j.toNat ≠ k)
    (hpoll : ∀ j : BitVec 8, i = .spwmPoll j → j.toNat ≠ k) : u.block.spwm[k]? = s.block.spwm[k]? := by
  cases h with
  | @channel _ j hi c _ out =>
    have hne : j.toNat ≠ k := by
      obtain ⟨pin, freq, duty, rfl⟩ | rfl := hi
      · exact hcfg j pin freq duty rfl
      · exact hpoll j rfl
    exact List.getElem?_set_ne hne
  | _ => rfl

/-- A configured channel stays configured: a record that a command stores has its `cfg` bit set (42_soft_pwm.md R127). -/
theorem Written.channel_configured {i : Instr} {s u : State} {k : Nat} {c : Channel} (h : Written s i u)
    (hc : s.block.spwm[k]? = some c) (hcfg : c.cfg = true) : ∃ c', u.block.spwm[k]? = some c' ∧ c'.cfg = true := by
  cases h with
  | @channel _ j _ c' hcfg' out =>
    by_cases hj : j.toNat = k
    · subst hj
      exact ⟨c', List.getElem?_set_self (List.getElem?_eq_some_iff.mp hc).1, hcfg'⟩
    · exact ⟨c, (List.getElem?_set_ne hj).trans hc, hcfg⟩
  | _ => exact ⟨c, hc, hcfg⟩

/-- Settles O24. -/
theorem channelRecordsAreIndependent : Obligations.ChannelRecordsAreIndependent := by
  refine ⟨fun i s t k h hcfg hpoll => ?_, fun i s t k c h hc hcfg => ?_⟩
  · obtain ⟨u, _, hw, hb, -⟩ := exec_written h
    rw [hb]
    exact hw.channel_eq hcfg hpoll
  · obtain ⟨u, _, hw, hb, -⟩ := exec_written h
    rw [hb]
    exact hw.channel_configured hc hcfg

/-- Settles O25: the two flag writes belong to the inits and the cleanups. -/
theorem mappingFlagsChangeOnlyByInitAndCleanup : Obligations.MappingFlagsChangeOnlyByInitAndCleanup := by
  intro i s t h
  obtain ⟨u, _, hw, hb, -⟩ := exec_written h
  rw [hb]
  cases hw with
  | gpioFlag hi v => exact ⟨fun hinit hcleanup => absurd hi (not_or.mpr ⟨hinit, hcleanup⟩), fun _ _ => rfl⟩
  | pwmFlag hi v => exact ⟨fun _ _ => rfl, fun hinit hcleanup => absurd hi (not_or.mpr ⟨hinit, hcleanup⟩)⟩
  | _ => exact ⟨fun _ _ => rfl, fun _ _ => rfl⟩

/-- Settles O26: the writes of the PWM bank belong to commands that need the bank. -/
theorem pwmBankChangesOnlyByItsCommands : Obligations.PwmBankChangesOnlyByItsCommands := by
  intro i s t h hneeds
  obtain ⟨u, _, hw, hb, -⟩ := exec_written h
  rw [hb]
  cases hw with
  | triple => simp [needsPwmBank] at hneeds
  | enableBit hi => rcases hi with rfl | rfl <;> simp [needsPwmBank] at hneeds
  | _ => exact ⟨rfl, rfl, rfl, rfl⟩

/-- Settles O13: only `HPWM_SET` writes the three files; its own channel gets a legal triple, any other at most another
divider of the range. -/
theorem legalTripleStaysLegal : Obligations.LegalTripleStaysLegal := by
  intro i s t c hinv hok h
  obtain ⟨u, _, hw, hb, hparams, -⟩ := exec_written h
  suffices hu : TripleOk u c from hu.congr hparams (by rw [hb]) (by rw [hb]) (by rw [hb])
  cases hw with
  | @triple ch _ _ _ _ hch hduty hsel =>
    by_cases hc : ch.toNat = c
    · subst hc
      exact storeTriple_self_ok hinv hch hsel hduty
    · exact storeTriple_other_ok hinv hc hsel hok
  | _ => exact hok.congr rfl rfl rfl rfl

end Sys2Proof.Machine
end

section
/-! PROOF. The commands that touch a pin or the PWM bank (O29, O48, O50, O57, O59): the meaning of each when its checks
pass, by its forward lemma, and what the level register, the pads, the triple and the enable bits then are. -/

namespace Sys2Proof.Machine

/-! ### The invariant's files, read by index -/

theorem State.Inv.fsel_length {s : State} (h : s.Inv) : s.block.fsel.length = s.params.npins := by
  obtain ⟨-, ⟨-, hfsel, -⟩, -⟩ := h
  exact hfsel

theorem State.Inv.out_length {s : State} (h : s.Inv) : s.block.out.length = s.params.npins := by
  obtain ⟨-, ⟨-, -, hout, -⟩, -⟩ := h
  exact hout

/-- Every pin of the platform has a latch. -/
theorem State.Inv.latch {s : State} {p : Nat} (h : s.Inv) (hp : p < s.params.npins) :
    ∃ o, s.block.out[p]? = some o :=
  ⟨_, List.getElem?_eq_getElem (h.out_length.symm ▸ hp)⟩

/-- An index with a function-select field is a pin of the platform. -/
theorem State.Inv.lt_npins_of_fsel {s : State} {p : Nat} {f : Word} (h : s.Inv) (hf : s.block.fsel[p]? = some f) :
    p < s.params.npins := by
  obtain ⟨hp, -⟩ := List.getElem?_eq_some_iff.mp hf
  rwa [h.fsel_length] at hp

/-- An index with a latch is a pin of the platform. -/
theorem State.Inv.lt_npins_of_out {s : State} {p : Nat} {o : Bool} (h : s.Inv) (ho : s.block.out[p]? = some o) :
    p < s.params.npins := by
  obtain ⟨hp, -⟩ := List.getElem?_eq_some_iff.mp ho
  rwa [h.out_length] at hp

/-- The code of a mode fits a function-select field. -/
theorem modeCode_fits {P : Params} (mode : Mode) (h : P.GpioShape) : (modeCode P mode).toNat < 2 ^ P.fselBits := by
  obtain ⟨-, -, ⟨hin, hout, -⟩, -⟩ := h
  cases mode with
  | input => exact hin
  | output => exact hout

/-! ### The meaning of a command whose checks pass -/

/-- `PIN_MODE` of a pin of the platform stores the mode's code (41_gpio.md R106). -/
theorem exec_pinMode {s : State} {pin : BitVec 8} (mode : Mode) (h : s.Inv) (hrun : s.block.halted = false)
    (hm : s.block.gpioMapped = true) (hp : pin.toNat < s.params.npins) :
    exec (.pinMode pin mode) s =
      .next ((s.withFsel (s.block.fsel.set pin.toNat (modeCode s.params mode))).answer 0#64) := by
  obtain ⟨⟨hgpio, -⟩, -, hcodes, -⟩ := h
  have hset := setFsel_ok hgpio hm hp hcodes (modeCode_fits mode hgpio)
  change execPinMode pin mode s = _
  simp [execPinMode, command_running _ hrun, requireGpio_ok hm, requirePin_ok hp, hset]

/-- `DIGITAL_WRITE` on an output stores the level (41_gpio.md R107, R108). -/
theorem exec_digitalWrite {s : State} {pin : BitVec 8} (level : Level) (h : s.Inv) (hrun : s.block.halted = false)
    (hm : s.block.gpioMapped = true) (hf : s.block.fsel[pin.toNat]? = some s.params.fselOutput) :
    exec (.digitalWrite pin level) s = .next ((s.withOut (s.block.out.set pin.toNat level.toBit)).answer 0#64) := by
  have hp := h.lt_npins_of_fsel hf
  obtain ⟨⟨hgpio, -⟩, -, hcodes, -⟩ := h
  have hwrite := digitalWriteTo_eq level.toBit hgpio hm hp hf (hcodes _ (List.mem_of_getElem? hf))
  rw [if_pos rfl] at hwrite
  change execDigitalWrite pin level s = _
  simp [execDigitalWrite, command_running _ hrun, requireGpio_ok hm, requirePin_ok hp, hwrite]

/-- The level register of a word of the platform can be read. -/
theorem memRead_lev {s : State} {w : Nat} (hm : s.block.gpioMapped = true) (hw : w < s.params.nlev) :
    memRead s (.lev w) = .ok (readLines s (.lev w)) :=
  memRead_ok hm (decide_eq_true hw)

/-- `DIGITAL_READ` answers the observed level and changes nothing (41_gpio.md R110). -/
theorem exec_digitalRead {s : State} {pin : BitVec 8} (h : s.Inv) (hrun : s.block.halted = false)
    (hm : s.block.gpioMapped = true) (hp : pin.toNat < s.params.npins) :
    exec (.digitalRead pin) s = .next (s.answer (bitData (pinLevel s pin.toNat
      (draw s (.lev (levelWord s.params pin.toNat)) (levelOffset s.params pin.toNat))))) := by
  obtain ⟨⟨⟨-, -, -, hlevel, -⟩, -⟩, -⟩ := h
  have hread := memRead_lev hm (levelWord_lt hlevel hp)
  change execDigitalRead pin s = _
  simp [execDigitalRead, command_running _ hrun, requireGpio_ok hm, requirePin_ok hp, hread, readLines_lev hlevel]

/-- `HPWM_SET` of a configuration with a selection stores the triple (43_hw_pwm.md R143). -/
theorem exec_hpwmSet {s : State} {ch : BitVec 8} {freq : BitVec 32} {duty : BitVec 17} {div period : Nat}
    (hrun : s.block.halted = false) (hch : ch.toNat < s.params.nhpwm) (hm : s.block.pwmMapped = true)
    (hduty : duty.toNat ≤ 65536) (hfreq : freq.toNat ≠ 0) (hsel : select s.params freq.toNat = some (div, period)) :
    exec (.hpwmSet ch freq duty) s = .next ((storeTriple s ch.toNat div period (dutyCount duty period)).answer 0#64) := by
  change execHpwmSet ch freq duty s = _
  have hok : decide (duty.toNat ≤ 65536 ∧ freq.toNat ≠ 0) = true := decide_eq_true ⟨hduty, hfreq⟩
  have hselection : selection s.params freq = .ok (div, period) := by rw [selection, hsel]
  rw [execHpwmSet, command_running _ hrun, requireIndex_ok hch, act_bind_ok, requirePwm_ok hm, act_bind_ok,
    require_ok hok, act_bind_ok, hselection, act_bind_ok]
  exact congrArg (conclude s) (writeNat_triple hm hch _)

/-- `HPWM_ENABLE` on a platform that routes channels: the pin's field takes the channel's code and the channel's bit is
set (43_hw_pwm.md R145). -/
theorem exec_hpwmEnable_routed {s : State} {ch : BitVec 8} {b p : Nat} {a : Word} (h : s.Inv) (hrun : s.block.halted = false)
    (hg : s.block.gpioMapped = true) (hm : s.block.pwmMapped = true) (halt : s.params.pwmNeedsAlt = true)
    (hch : ch.toNat < s.params.nhpwm) (hb : s.params.pwmEnBit[ch.toNat]? = some b)
    (hp : s.params.pwmPin[ch.toNat]? = some p) (ha : s.params.pwmAlt[ch.toNat]? = some a) :
    exec (.hpwmEnable ch) s =
      .next (((s.withFsel (s.block.fsel.set p a)).withPwmCtl (s.block.pwmCtl ||| BitVec.twoPow 32 b)).answer 0#64) := by
  obtain ⟨⟨hgpio, -, -, haltShape⟩, -, hcodes, -⟩ := h
  have hroute := routeChannel_alt halt hgpio haltShape hg hp ha hcodes
  change execHpwmEnable ch s = _
  rw [execHpwmEnable, command_running _ hrun, requireIndex_ok hch, act_bind_ok, requirePwm_ok hm, act_bind_ok, hroute,
    act_bind_ok, hb, present_some, act_bind_ok, memRead_ctl (by exact hm), act_bind_ok, memWrite_ctl (by exact hm),
    act_bind_ok, BusWord.word_or_bit]
  rfl

/-! ### Levels (10_state.md R18; 20_memory.md R45, R46) -/

/-- Settles O29: a write to the level register stores nothing, and a pin's line carries its level. -/
theorem levelRegisterShowsPins : Obligations.LevelRegisterShowsPins := by
  intro s w h hm hw
  obtain ⟨⟨⟨-, -, ⟨-, -, hne⟩, hlevel, -⟩, -⟩, -⟩ := h
  refine ⟨fun v => memWrite_ok hm (decide_eq_true hw), readLines s (.lev w), memRead_lev hm hw, fun p o ho hp => ?_⟩
  subst hp
  rw [readLines_lev hlevel]
  refine ⟨fun hf => ?_, fun hf => ?_⟩
  · rw [pinLevel_eq _ hf ho, if_pos rfl]
  · rw [pinLevel_eq _ hf ho, if_neg (Ne.symm hne), if_pos rfl]

/-- Settles O48: the level `DIGITAL_READ` answers, by the pin's function. -/
theorem digitalReadReturnsLevel : Obligations.DigitalReadReturnsLevel := by
  intro s pin f o h hrun hm hf ho
  have hread := exec_digitalRead h hrun hm (h.lt_npins_of_fsel hf)
  obtain ⟨⟨⟨-, -, ⟨-, -, hne⟩, -⟩, -⟩, -⟩ := h
  refine ⟨_, hread, fun hout => ?_, fun hin => ?_⟩
  · rw [pinLevel_eq _ hf ho, if_pos hout]
  · rw [pinLevel_eq _ hf ho, if_neg (hin ▸ Ne.symm hne), if_pos hin]

/-! ### Pads (10_state.md R19) -/

section
variable {s : State} {p : Nat} {f : Word} {o : Bool}

theorem pad_output (hf : s.block.fsel[p]? = some s.params.fselOutput) (ho : s.block.out[p]? = some o) :
    pad s p = .drives o := by
  simp [pad, hf, ho]

theorem pad_input (hne : s.params.fselOutput ≠ s.params.fselInput) (hf : s.block.fsel[p]? = some s.params.fselInput)
    (ho : s.block.out[p]? = some o) : pad s p = .released := by
  simp [pad, hf, ho, Ne.symm hne]

theorem pad_carries {c : Nat} (hout : f ≠ s.params.fselOutput) (hin : f ≠ s.params.fselInput)
    (hf : s.block.fsel[p]? = some f) (ho : s.block.out[p]? = some o) (hc : carriedChannel s.params p f = some c) :
    pad s p = .carries c := by
  simp [pad, hf, ho, hout, hin, hc]

end

/-- No two channels share a pin, so a channel's pin with the channel's code carries that channel and no earlier one. -/
theorem carriedChannel_self {P : Params} {c p : Nat} {a : Word} (hshape : P.AltShape) (halt : P.pwmNeedsAlt = true)
    (hp : P.pwmPin[c]? = some p) (ha : P.pwmAlt[c]? = some a) : carriedChannel P p a = some c := by
  obtain ⟨⟨hlen, -, hnodup⟩, -⟩ := hshape halt
  obtain ⟨hc, -⟩ := List.getElem?_eq_some_iff.mp hp
  rw [carriedChannel, if_pos halt, List.find?_range_eq_some]
  refine ⟨by simp [hp, ha], List.mem_range.mpr (by omega), fun j hj => ?_⟩
  have hother : P.pwmPin[j]? ≠ some p := fun hjp => by
    have : j = c := (List.getElem?_inj (by omega) hnodup).mp (hjp.trans hp.symm)
    omega
  simp [hother]

/-- Settles O50: one clause for each command that changes what a pad does. -/
theorem padsFollowAtOnce : Obligations.PadsFollowAtOnce := by
  intro s h hrun hm
  have hfsel := h.fsel_length
  have hout := h.out_length
  refine ⟨fun pin hp => ?_, fun pin o ho => ?_, fun pin level hf => ?_, fun ch p hpwm halt hp => ?_⟩
  · obtain ⟨o, ho⟩ := h.latch hp
    refine ⟨_, exec_pinMode .input h hrun hm hp, ?_⟩
    obtain ⟨⟨⟨-, -, ⟨-, -, hne⟩, -⟩, -⟩, -⟩ := h
    exact pad_input hne (List.getElem?_set_self (by omega)) ho
  · have hp := h.lt_npins_of_out ho
    exact ⟨_, exec_pinMode .output h hrun hm hp, pad_output (List.getElem?_set_self (by omega)) ho⟩
  · have hp := h.lt_npins_of_fsel hf
    refine ⟨_, exec_digitalWrite level h hrun hm hf, ?_⟩
    have hlevel : level.toBit = decide (level = .high) := by cases level <;> rfl
    rw [← hlevel]
    exact pad_output hf (List.getElem?_set_self (by omega))
  · have ⟨⟨_, _, ⟨_, _, _, ⟨henLen, _, _⟩⟩, haltShape⟩, _⟩ := h
    have ⟨⟨hpinLen, hpins, _⟩, haltLen, hcodes⟩ := haltShape halt
    obtain ⟨hch, -⟩ := List.getElem?_eq_some_iff.mp hp
    have ha := List.getElem?_eq_getElem (l := s.params.pwmAlt) (i := ch.toNat) (by omega)
    have hb := List.getElem?_eq_getElem (l := s.params.pwmEnBit) (i := ch.toNat) (by omega)
    have hpin : p < s.params.npins := hpins p (List.mem_of_getElem? hp)
    obtain ⟨-, hin, hout⟩ := hcodes _ (List.mem_of_getElem? ha)
    obtain ⟨o, ho⟩ := h.latch hpin
    exact ⟨_, exec_hpwmEnable_routed h hrun hm hpwm halt (by omega) hb hp ha,
      pad_carries hout hin (List.getElem?_set_self (by omega)) ho (carriedChannel_self haltShape halt hp ha)⟩

/-! ### The PWM bank -/

/-- Settles O57: the triple that the three writes leave, and its ranges. -/
theorem hpwmSetWritesTheTriple : Obligations.HpwmSetWritesTheTriple := by
  intro s ch freq duty div period h hrun hch hm hduty hfreq hsel
  have hcount : dutyCount duty period = (duty.toNat * period + 32768) / 65536 := by
    unfold dutyCount roundHalfUp
    omega
  refine ⟨_, exec_hpwmSet hrun hch hm hduty hfreq hsel, ?_, ?_⟩
  · rw [hcount]
    rfl
  · exact (storeTriple_self_ok h hch hsel hduty).congr rfl rfl rfl rfl

/-- A command that was answered OK has completed. -/
theorem exec_answered {i : Instr} {s t : State} {d : Data} (hrun : s.block.halted = false) (h : exec i s = .next t)
    (hr : t.rsp = some ⟨0#8, d⟩) : ∃ u, Effect s i d u ∧ t = u.answer d := by
  obtain ⟨hh, -⟩ | ⟨-, ⟨d', u, he, rfl⟩ | ⟨e, -, rfl⟩ | ⟨-, -, -, rfl⟩⟩ := exec_ends h
  · rw [hrun] at hh
    cases hh
  · obtain rfl : d' = d := by simpa using hr
    exact ⟨u, he, rfl⟩
  · cases e <;> simp [ErrorKind.code] at hr
  · cases hr

/-- No two channels share an enable bit. -/
theorem enBit_inj {P : Params} {c k b : Nat} (h : P.PwmShape) (hc : P.pwmEnBit[c]? = some b)
    (hk : P.pwmEnBit[k]? = some b) : k = c := by
  obtain ⟨-, -, -, -, -, hnodup⟩ := h
  obtain ⟨hlt, -⟩ := List.getElem?_eq_some_iff.mp hk
  exact (List.getElem?_inj hlt hnodup).mp (hk.trans hc.symm)

/-- A write of `PWM.CTL` that changes at most one bit gives its channel that bit and leaves every other channel's
(10_state.md R20). -/
theorem enabled_of_bit_written {s t : State} {c b : Nat} {v : Bool} (hshape : s.params.PwmShape)
    (hp : t.params = s.params) (hb : s.params.pwmEnBit[c]? = some b)
    (hctl : ∀ i, i < 32 → t.block.pwmCtl.getLsbD i = if i = b then v else s.block.pwmCtl.getLsbD i) :
    enabled t c = v ∧ ∀ k, k ≠ c → enabled t k = enabled s k := by
  have ⟨_, _, _, _, hlt, _⟩ := hshape
  refine ⟨?_, fun k hk => ?_⟩
  · simp only [enabled, hp, hb]
    rw [hctl b (hlt b (List.mem_of_getElem? hb)), if_pos rfl]
  · simp only [enabled, hp]
    cases hbk : s.params.pwmEnBit[k]? with
    | none => rfl
    | some b' =>
      have hne : b' ≠ b := fun hbb => hk (enBit_inj hshape hb (hbb ▸ hbk))
      simp only
      rw [hctl b' (hlt b' (List.mem_of_getElem? hbk)), if_neg hne]

theorem getLsbD_set_bit {w : Word} {b i : Nat} (hi : i < 32) :
    (w ||| BitVec.twoPow 32 b).getLsbD i = if i = b then true else w.getLsbD i := by
  rw [BitVec.getLsbD_or, BitVec.getLsbD_twoPow]
  by_cases hib : i = b
  · subst hib
    simp [hi]
  · simp [hib, Ne.symm hib]

theorem getLsbD_clear_bit {w : Word} {b i : Nat} (hi : i < 32) :
    (w &&& ~~~ BitVec.twoPow 32 b).getLsbD i = if i = b then false else w.getLsbD i := by
  rw [BitVec.getLsbD_and, BitVec.getLsbD_not, BitVec.getLsbD_twoPow]
  by_cases hib : i = b
  · subst hib
    simp [hi]
  · simp [hi, hib, Ne.symm hib]

/-- A completed `HPWM_ENABLE` has set the channel's bit of `PWM.CTL` (43_hw_pwm.md R145). -/
theorem effect_hpwmEnable_ctl {s u : State} {ch : BitVec 8} {d : Data} (he : Effect s (.hpwmEnable ch) d u) :
    u.params = s.params ∧ ∃ b, s.params.pwmEnBit[ch.toNat]? = some b ∧
      u.block.pwmCtl = s.block.pwmCtl ||| BitVec.twoPow 32 b := by
  obtain ⟨-, -, hm, v, b, old, hv, hb, hold, hu⟩ := he
  obtain ⟨codes, rfl⟩ := routeChannel_eq_ok hv
  have hm' : (s.withFsel codes).block.pwmMapped = true := hm
  rw [memRead_ctl hm', Except.ok.injEq] at hold
  rw [memWrite_ctl hm', Except.ok.injEq, ← hold, BusWord.word_or_bit] at hu
  subst hu
  exact ⟨rfl, b, hb, rfl⟩

/-- A completed `HPWM_DISABLE` has cleared the channel's bit of `PWM.CTL` (43_hw_pwm.md R146). -/
theorem effect_hpwmDisable_ctl {s u : State} {ch : BitVec 8} {d : Data} (he : Effect s (.hpwmDisable ch) d u) :
    u.params = s.params ∧ ∃ b, s.params.pwmEnBit[ch.toNat]? = some b ∧
      u.block.pwmCtl = s.block.pwmCtl &&& ~~~ BitVec.twoPow 32 b := by
  obtain ⟨-, -, hm, b, old, hb, hold, hu⟩ := he
  rw [memRead_ctl hm, Except.ok.injEq] at hold
  rw [memWrite_ctl hm, Except.ok.injEq, ← hold, BusWord.word_andNot_bit] at hu
  subst hu
  exact ⟨rfl, b, hb, rfl⟩

/-- Settles O59: `HPWM_ENABLE` sets and `HPWM_DISABLE` clears one bit of `PWM.CTL`, and no other channel has that bit. -/
theorem enableBitsAreIndependent : Obligations.EnableBitsAreIndependent := by
  intro s t ch d h hrun
  obtain ⟨⟨-, -, hshape, -⟩, -⟩ := h
  refine ⟨fun ht hr => ?_, fun ht hr => ?_⟩
  · obtain ⟨u, he, rfl⟩ := exec_answered hrun ht hr
    obtain ⟨hp, b, hb, hctl⟩ := effect_hpwmEnable_ctl he
    refine enabled_of_bit_written hshape hp hb fun i hi => ?_
    rw [State.answer_block, hctl, getLsbD_set_bit hi]
  · obtain ⟨u, he, rfl⟩ := exec_answered hrun ht hr
    obtain ⟨hp, b, hb, hctl⟩ := effect_hpwmDisable_ctl he
    refine enabled_of_bit_written hshape hp hb fun i hi => ?_
    rw [State.answer_block, hctl, getLsbD_clear_bit hi]

end Sys2Proof.Machine
end

section
/-! PROOF. Launch, reset and halting (O9, O10, O16). -/

namespace Sys2Proof.Machine

/-- Settles O9: the equation of the step that takes a reset. -/
theorem resetInputClearsFlags : Obligations.ResetInputClearsFlags := by
  intro s rest hscript
  refine ⟨_, step_reset hscript, rfl, rfl, rfl, fun c hc => ?_, List.length_mapIdx, List.length_mapIdx,
    rfl, rfl, rfl, rfl, rfl, rfl, rfl, rfl, rfl, rfl⟩
  obtain ⟨k, -, rfl⟩ := List.mem_mapIdx.mp (show c ∈ s.block.spwm.mapIdx _ from hc)
  rfl

/-- A launch state has no configured channel, so its channels are sound. -/
theorem State.Launch.inv {s : State} (h : s.Launch) : s.Inv := by
  obtain ⟨hvalid, hshape, hcodes, -, -, -, hcfg⟩ := h
  refine ⟨hvalid, hshape, hcodes, fun c hc hset => ?_⟩
  rw [hcfg c hc] at hset
  cases hset

/-- The default parameters are a legal platform (00_scope.md R7). -/
theorem default_valid : Config.default.Valid := by
  refine ⟨by decide, by decide, by decide, fun _ => ⟨by decide, by decide, fun a ha => ?_⟩⟩
  obtain rfl : a = 0b010#32 := by simpa [Config.default] using ha
  decide

theorem reset_is_launch : State.reset.Launch := by
  refine ⟨default_valid, by decide, fun f hf => ?_, rfl, rfl, rfl, fun c hc => ?_⟩
  · rw [List.eq_of_mem_replicate (show f ∈ List.replicate 54 0b111#32 from hf)]
    decide
  · rw [List.eq_of_mem_replicate (show c ∈ List.replicate 4 Channel.unconfigured from hc)]
    rfl

/-- Settles O10: at launch no channel is configured, so the invariant asks nothing of the channels. -/
theorem launchStatesMeetInvariant : Obligations.LaunchStatesMeetInvariant :=
  ⟨fun _ h => h.inv, reset_is_launch, reset_is_launch.inv⟩

/-- A halted block answers no command (10_state.md R14). -/
theorem exec_halted {s : State} (i : Instr) (h : s.block.halted = true) : exec i s = .next s.silent := by
  cases i <;> exact command_halted _ h

/-- Settles O16: a case split on the event and, for a frame, on whether it decodes. -/
theorem haltedBlockStaysSilent : Obligations.HaltedBlockStaysSilent := by
  intro s e rest h hscript hreset
  cases e with
  | command F =>
    cases hd : decode F with
    | none =>
      refine ⟨_, step_illegal hscript hd, ?_⟩
      rw [if_pos h]
      exact ⟨rfl, rfl, rfl, rfl⟩
    | some i =>
      exact ⟨_, (step_command hscript hd).trans (exec_halted i h), rfl, rfl, rfl, rfl⟩
  | environment e => exact ⟨_, step_environment hscript, rfl, rfl, rfl, rfl⟩
  | reset => exact absurd rfl hreset

end Sys2Proof.Machine
end

section
/-! PROOF. The registers of the two banks (O27, O28, O30): what a write stores, entry by entry, and what a read then shows. -/

namespace Sys2Proof.Machine

/-! ### Accesses that went through (20_memory.md R40) -/

theorem access_eq_ok {s : State} {a : RegAddr} {x : Unit} (h : access s a = .ok x) :
    bankMapped s a = true ∧ hasRegister s.params a = true := by
  rcases access_cases s a with ⟨hm, hr, -⟩ | ⟨-, he⟩ | ⟨-, he⟩
  · exact ⟨hm, hr⟩
  · rw [he] at h
    cases h
  · rw [he] at h
    cases h

/-- A write that went through leaves a register that can be read. -/
theorem memRead_of_memWrite {s t : State} {a : RegAddr} {v : BusWord} (h : memWrite s a v = .ok t) :
    memRead t a = .ok (readLines t a) := by
  have ht := memWrite_eq_ok h
  obtain ⟨_, haccess, -⟩ := bind_ok h
  obtain ⟨hm, hr⟩ := access_eq_ok haccess
  obtain ⟨hgpio, hpwm, -⟩ := writeLines_rest s a v
  have hm' : bankMapped t a = true := by
    rw [← hm, ht]
    cases a <;> assumption
  exact memRead_ok hm' (by rwa [ht, writeLines_params])

/-! ### The GPIO bank -/

/-- A field is no wider than a register word (00_scope.md R7). -/
theorem fselBits_le_of_gpioShape {P : Params} (h : P.GpioShape) : P.fselBits ≤ 32 := by
  obtain ⟨-, ⟨-, hper, hwidth⟩, -⟩ := h
  exact (Nat.le_mul_of_pos_right P.fselBits hper).trans hwidth

/-- A write of a function-select word stores the written bits in the fields of that word's pins (20_memory.md R42). -/
theorem writeLines_fsel_getElem? (s : State) (w p : Nat) (v : BusWord) :
    (writeLines s (.fsel w) v).block.fsel[p]? = s.block.fsel[p]?.map fun f =>
      if fselWord s.params p = w then v.field (fselOffset s.params p) s.params.fselBits else f :=
  List.getElem?_mapIdx

/-- Settles O27: a pin's field is cut from the lines written, and the read shows each pin's field at its offset. -/
theorem fselWordReadsBack : Obligations.FselWordReadsBack := by
  intro s t w v h hwrite
  obtain ⟨⟨hgpio, -⟩, -⟩ := h
  have hwidth := fselBits_le_of_gpioShape hgpio
  obtain ⟨-, ⟨-, hper, -⟩, -⟩ := hgpio
  have hread := memRead_of_memWrite hwrite
  obtain rfl := memWrite_eq_ok hwrite
  refine ⟨rfl, fun p j f hj hf hw => ?_, fun p hw => ?_⟩
  · have hbit : f.getLsbD j = v (fselOffset s.params p + j) := by
      obtain ⟨_, -, rfl⟩ := Option.map_eq_some_iff.mp (writeLines_fsel_getElem? s w p v ▸ hf)
      rw [if_pos hw, BusWord.field_getLsbD, decide_eq_true ⟨by omega, hj⟩, Bool.true_and]
    refine ⟨hbit, _, hread, ?_⟩
    subst hw
    exact (readLines_fsel (s := writeLines s (.fsel (fselWord s.params p)) v) hper hj hf).trans hbit
  · rw [writeLines_fsel_getElem?]
    simp [hw]

/-- The latch of each pin after a write to a set or clear word (20_memory.md R43, R44). -/
theorem latches_getElem? {s : State} {p : Nat} {o : Bool} (w : Nat) (v : BusWord) (l : Bool)
    (ho : s.block.out[p]? = some o) :
    (latches s w v l)[p]? = some
      (if levelWord s.params p = w ∧ v (levelOffset s.params p) = true ∧ s.block.fsel[p]? = some s.params.fselOutput
       then l else o) := by
  rw [latches, List.getElem?_mapIdx, ho, Option.map_some]

/-- A write to a set word stores 1 and a write to a clear word stores 0 in the latches it selects. -/
theorem writeLines_setOrClr (s : State) (w : Nat) (v : BusWord) (level : Bool) :
    writeLines s (if level then .set w else .clr w) v = s.withOut (latches s w v level) := by
  cases level <;> rfl

/-- Settles O28: both registers store the latches of `latches`, which are known pin by pin. -/
theorem setAndClearTouchOnlyOutputs : Obligations.SetAndClearTouchOnlyOutputs := by
  intro s t w v level hwrite
  obtain rfl := memWrite_eq_ok hwrite
  rw [writeLines_setOrClr]
  exact ⟨rfl, latches_length s w v level, fun p o ho => latches_getElem? w v level ho⟩

/-! ### The PWM bank (20_memory.md R47) -/

/-- The lines of an entry are its bits. -/
theorem fileBit_eq_ofWord {s : State} {a : RegAddr} {file : List Word} {c : Nat} {v : Word} (h : file[c]? = some v) :
    fileBit s a file c = BusWord.ofWord v := by
  funext i
  simp only [fileBit, h, BusWord.ofWord_apply]

/-- The lines of an entry depend on the entry and on the number of the draw. -/
theorem fileBit_congr {s t : State} {a : RegAddr} {file file' : List Word} {c : Nat} (hd : t.draws = s.draws)
    (hf : file'[c]? = file[c]?) : fileBit t a file' c = fileBit s a file c := by
  funext i
  simp only [fileBit, hf, draw, hd]

/-- A read depends on the gate and on the lines driven. -/
theorem memRead_congr {s t : State} {a : RegAddr} (ha : access t a = access s a) (hl : readLines t a = readLines s a) :
    memRead t a = memRead s a := by
  rw [memRead, memRead, ha, hl]

/-- Two channels share a divider register exactly when the platform has one for all, or they are the same channel
(10_state.md R21). -/
theorem divIndex_eq_iff {P : Params} {c c' : Nat} :
    divIndex P c = divIndex P c' ↔ P.pwmDivShared = true ∨ c' = c := by
  cases hshared : P.pwmDivShared <;> simp [divIndex, hshared, eq_comm]

section
variable {s : State} {c c' : Nat}

theorem memRead_div {v : Word} (hm : s.block.pwmMapped = true) (hc : c < s.params.nhpwm)
    (hv : s.block.pwmDiv[divIndex s.params c]? = some v) : memRead s (.div c) = .ok (BusWord.ofWord v) :=
  (memRead_ok (a := .div c) hm (decide_eq_true hc)).trans (congrArg Except.ok (fileBit_eq_ofWord hv))

theorem memRead_rng {v : Word} (hm : s.block.pwmMapped = true) (hc : c < s.params.nhpwm)
    (hv : s.block.pwmRng[c]? = some v) : memRead s (.rng c) = .ok (BusWord.ofWord v) :=
  (memRead_ok (a := .rng c) hm (decide_eq_true hc)).trans (congrArg Except.ok (fileBit_eq_ofWord hv))

theorem memRead_dat {v : Word} (hm : s.block.pwmMapped = true) (hc : c < s.params.nhpwm)
    (hv : s.block.pwmDat[c]? = some v) : memRead s (.dat c) = .ok (BusWord.ofWord v) :=
  (memRead_ok (a := .dat c) hm (decide_eq_true hc)).trans (congrArg Except.ok (fileBit_eq_ofWord hv))

theorem memRead_withPwmDiv_set_ne (v : Word) (hne : divIndex s.params c ≠ divIndex s.params c') :
    memRead (s.withPwmDiv (s.block.pwmDiv.set (divIndex s.params c) v)) (.div c') = memRead s (.div c') :=
  memRead_congr rfl (fileBit_congr rfl (List.getElem?_set_ne hne))

theorem memRead_withPwmRng_set_ne (v : Word) (hne : c ≠ c') :
    memRead (s.withPwmRng (s.block.pwmRng.set c v)) (.rng c') = memRead s (.rng c') :=
  memRead_congr rfl (fileBit_congr rfl (List.getElem?_set_ne hne))

theorem memRead_withPwmDat_set_ne (v : Word) (hne : c ≠ c') :
    memRead (s.withPwmDat (s.block.pwmDat.set c v)) (.dat c') = memRead s (.dat c') :=
  memRead_congr rfl (fileBit_congr rfl (List.getElem?_set_ne hne))

end

/-- Settles O30: one clause for each register; a write replaces one entry of one file. -/
theorem pwmRegistersAreStorage : Obligations.PwmRegistersAreStorage := by
  intro s c v h hm hc
  have hindex := divIndex_lt h hc
  obtain ⟨-, ⟨-, -, -, -, hrng, hdat, -⟩, -⟩ := h
  have hr : decide (c < s.params.nhpwm) = true := decide_eq_true hc
  refine ⟨⟨_, memWrite_ctl hm, ?_⟩, ⟨_, memWrite_ok hm hr, ?_⟩, ⟨_, memWrite_ok hm hr, ?_⟩, ⟨_, memWrite_ok hm hr, ?_⟩⟩
  · rw [BusWord.word_ofWord]
    exact ⟨rfl, memRead_ctl (s := s.withPwmCtl v) hm⟩
  · simp only [writeLines, BusWord.word_ofWord]
    have hself := List.getElem?_set_self (a := v) hindex
    refine ⟨rfl, memRead_div (by exact hm) hc hself, fun c' hc' => ?_⟩
    split
    next hsame =>
      rw [divIndex_eq_iff.mpr hsame]
      rw [divIndex_eq_iff.mpr hsame] at hself
      exact memRead_div (by exact hm) hc' hself
    next hother => exact memRead_withPwmDiv_set_ne v (mt divIndex_eq_iff.mp hother)
  · simp only [writeLines, BusWord.word_ofWord]
    exact ⟨rfl, memRead_rng (by exact hm) hc (List.getElem?_set_self (by omega)),
      fun c' hne => memRead_withPwmRng_set_ne v hne.symm⟩
  · simp only [writeLines, BusWord.word_ofWord]
    exact ⟨rfl, memRead_dat (by exact hm) hc (List.getElem?_set_self (by omega)),
      fun c' hne => memRead_withPwmDat_set_ne v hne.symm⟩

end Sys2Proof.Machine
end

section
/-! PROOF. No step stops the model (O12): the early ends of a command's body are errors of the block or the loss of the
clock, since every access names a register of a mapped bank and every file read an entry of the file. -/

namespace Sys2Proof.Machine

/-! ### Bodies that end without a stop of the model -/

/-- The body neither faults nor is refused. -/
def NeverStops {α : Type} (x : Act α) : Prop := ∀ e, x = .error e → ¬ e.IsModel

section
variable {α β : Type}

theorem NeverStops.ok (x : α) : NeverStops (.ok x : Act α) := fun _ h => nomatch h

theorem NeverStops.of_eq_ok {x : Act α} {y : α} (h : x = .ok y) : NeverStops x := h ▸ .ok y

theorem NeverStops.raise (k : ErrorKind) : NeverStops (.error (.raise k) : Act α) := by
  rintro _ ⟨⟩ (⟨_, h⟩ | ⟨_, h⟩) <;> cases h

theorem NeverStops.halt : NeverStops (.error .halt : Act α) := by
  rintro _ ⟨⟩ (⟨_, h⟩ | ⟨_, h⟩) <;> cases h

theorem NeverStops.bind {x : Act α} {f : α → Act β} (hx : NeverStops x)
    (hf : ∀ a, x = .ok a → NeverStops (f a)) : NeverStops (x >>= f) := by
  intro e h
  rcases bind_error h with h | ⟨a, ha, h⟩
  · exact hx e h
  · exact hf a ha e h

end

theorem neverStops_require (b : Bool) (k : ErrorKind) : NeverStops (require b k) := by
  rcases require_cases b k with ⟨-, h⟩ | ⟨-, h⟩ <;> rw [h]
  · exact .ok ()
  · exact .raise k

theorem neverStops_sampleClock (s : State) : NeverStops (sampleClock s) := by
  cases h : s.env.clockOk
  · rw [sampleClock_halt h]
    exact .halt
  · exact .of_eq_ok (sampleClock_ok h)

theorem neverStops_selection (P : Params) (freq : BitVec 32) : NeverStops (selection P freq) := by
  rw [selection]
  split
  · exact .ok _
  · exact .raise _

/-- An entry inside its file is present. -/
theorem neverStops_present {α : Type} {l : List α} {k : Nat} (h : k < l.length) : NeverStops (present l[k]?) := by
  rw [List.getElem?_eq_getElem h]
  exact .ok _

theorem requirePin_eq_ok {s : State} {p : BitVec 8} {x : Unit} (h : requirePin s p = .ok x) :
    p.toNat < s.params.npins :=
  of_decide_eq_true (require_eq_ok h)

/-- A command whose body never stops the model answers a next state. -/
theorem command_answers {s : State} {body : Act (Data × State)} (h : NeverStops body) :
    ∃ t, command s body = .next t := by
  cases hh : s.block.halted with
  | true => exact ⟨_, command_halted body hh⟩
  | false =>
    rw [command_running body hh]
    match body, h with
    | .ok (d, t), _ => exact ⟨_, rfl⟩
    | .error (.raise k), _ => exact ⟨_, rfl⟩
    | .error .halt, _ => exact ⟨_, rfl⟩
    | .error (.fault f), h => exact absurd (.inl ⟨f, rfl⟩) (h _ rfl)
    | .error (.refuse r), h => exact absurd (.inr ⟨r, rfl⟩) (h _ rfl)

/-! ### The shared procedures on a mapped bank -/

theorem neverStops_setFsel {s : State} {p : Nat} {code : Word} (h : s.Inv) (hm : s.block.gpioMapped = true)
    (hp : p < s.params.npins) (hcode : code.toNat < 2 ^ s.params.fselBits) : NeverStops (setFsel s p code) := by
  obtain ⟨⟨hgpio, -⟩, -, hcodes, -⟩ := h
  exact .of_eq_ok (setFsel_ok hgpio hm hp hcodes hcode)

theorem neverStops_digitalWriteTo {s : State} {p : Nat} (level : Bool) (h : s.Inv) (hm : s.block.gpioMapped = true)
    (hp : p < s.params.npins) : NeverStops (digitalWriteTo s p level) := by
  have hf := List.getElem?_eq_getElem (h.fsel_length.symm ▸ hp)
  have ⟨⟨hgpio, _⟩, _, hcodes, _⟩ := h
  rw [digitalWriteTo_eq level hgpio hm hp hf (hcodes _ (List.mem_of_getElem? hf))]
  split
  · exact .ok _
  · exact .raise _

/-- A channel of the platform has a pin of the platform and a code that fits (00_scope.md R7). -/
theorem neverStops_routeChannel {s : State} {c : Nat} (h : s.Inv) (hc : c < s.params.nhpwm) :
    NeverStops (routeChannel s c) := by
  rw [routeChannel]
  split
  next halt =>
    have ⟨⟨_, _, _, hshape⟩, _⟩ := h
    obtain ⟨⟨hpinLen, hpins, -⟩, haltLen, haltCodes⟩ := hshape halt
    refine .bind (neverStops_require _ _) fun _ hm => ?_
    refine .bind (neverStops_present (hpinLen.symm ▸ hc)) fun p hp => ?_
    refine .bind (neverStops_present (haltLen.symm ▸ hc)) fun a ha => ?_
    obtain ⟨hcode, -⟩ := haltCodes a (List.mem_of_getElem? (present_eq_ok ha))
    exact neverStops_setFsel h (require_eq_ok hm) (hpins p (List.mem_of_getElem? (present_eq_ok hp))) hcode
  next => exact .ok s

/-! ### The commands -/

section
variable {s : State}

theorem execGpioInit_answers (s : State) : ∃ t, execGpioInit s = .next t := by
  refine command_answers ?_
  split
  · exact .ok _
  · exact .bind (neverStops_require _ _) fun _ _ => .ok _

theorem execHpwmInit_answers (s : State) : ∃ t, execHpwmInit s = .next t := by
  refine command_answers ?_
  split
  · exact .ok _
  · exact .bind (neverStops_require _ _) fun _ _ => .ok _

theorem execPinMode_answers (pin : BitVec 8) (mode : Mode) (h : s.Inv) : ∃ t, execPinMode pin mode s = .next t := by
  have ⟨⟨hgpio, _⟩, _⟩ := h
  refine command_answers (.bind (neverStops_require _ _) fun _ hm => .bind (neverStops_require _ _) fun _ hp => ?_)
  exact .bind (neverStops_setFsel h (require_eq_ok hm) (requirePin_eq_ok hp) (modeCode_fits mode hgpio)) fun _ _ => .ok _

theorem execDigitalWrite_answers (pin : BitVec 8) (level : Level) (h : s.Inv) :
    ∃ t, execDigitalWrite pin level s = .next t := by
  refine command_answers (.bind (neverStops_require _ _) fun _ hm => .bind (neverStops_require _ _) fun _ hp => ?_)
  exact .bind (neverStops_digitalWriteTo _ h (require_eq_ok hm) (requirePin_eq_ok hp)) fun _ _ => .ok _

theorem execDigitalRead_answers (pin : BitVec 8) (h : s.Inv) : ∃ t, execDigitalRead pin s = .next t := by
  obtain ⟨⟨⟨-, -, -, hlevel, -⟩, -⟩, -⟩ := h
  refine command_answers (.bind (neverStops_require _ _) fun _ hm => .bind (neverStops_require _ _) fun _ hp => ?_)
  exact .bind (.of_eq_ok (memRead_lev (require_eq_ok hm) (levelWord_lt hlevel (requirePin_eq_ok hp)))) fun _ _ => .ok _

theorem execMillis_answers (s : State) : ∃ t, execMillis s = .next t :=
  command_answers (.bind (neverStops_sampleClock s) fun _ _ => .ok _)

/-- A slot that passes the index check is in the timer file. -/
theorem neverStops_timerAt {j : BitVec 8} (h : s.Inv) (hj : j.toNat < s.params.ntimer) : NeverStops (timerAt s j) := by
  obtain ⟨-, ⟨htimers, -⟩, -⟩ := h
  exact neverStops_present (htimers.symm ▸ hj)

/-- A channel that passes the index check is in the channel file. -/
theorem neverStops_channelAt {j : BitVec 8} (h : s.Inv) (hj : j.toNat < s.params.nspwm) : NeverStops (channelAt s j) := by
  obtain ⟨-, ⟨-, -, -, -, -, -, hspwm⟩, -⟩ := h
  exact neverStops_present (hspwm.symm ▸ hj)

theorem execTimerSet_answers (j : BitVec 8) (interval : BitVec 64) (h : s.Inv) :
    ∃ t, execTimerSet j interval s = .next t := by
  refine command_answers (.bind (neverStops_require _ _) fun _ hj => .bind (neverStops_sampleClock s) fun _ _ => ?_)
  exact .bind (neverStops_timerAt h (requireIndex_eq_ok hj)) fun _ _ => .ok _

theorem execTimerExpired_answers (j : BitVec 8) (h : s.Inv) : ∃ t, execTimerExpired j s = .next t := by
  refine command_answers (.bind (neverStops_require _ _) fun _ hj => .bind (neverStops_sampleClock s) fun _ _ => ?_)
  exact .bind (neverStops_timerAt h (requireIndex_eq_ok hj)) fun _ _ => .ok _

theorem execTimerTick_answers (j : BitVec 8) (h : s.Inv) : ∃ t, execTimerTick j s = .next t := by
  refine command_answers (.bind (neverStops_require _ _) fun _ hj => .bind (neverStops_sampleClock s) fun _ _ => ?_)
  refine .bind (neverStops_timerAt h (requireIndex_eq_ok hj)) fun _ _ => ?_
  split
  · exact .ok _
  · exact .ok _

theorem execSpwmCfg_answers (ch pin : BitVec 8) (freq : BitVec 32) (duty : BitVec 17) (h : s.Inv) :
    ∃ t, execSpwmCfg ch pin freq duty s = .next t := by
  refine command_answers (.bind (neverStops_require _ _) fun _ hch => .bind (neverStops_sampleClock s) fun _ _ => ?_)
  refine .bind (neverStops_require _ _) fun _ hm => .bind (neverStops_require _ _) fun _ hp => ?_
  refine .bind (neverStops_require _ _) fun _ _ => .bind (neverStops_channelAt h (requireIndex_eq_ok hch)) fun _ _ => ?_
  exact .bind (neverStops_digitalWriteTo _ h (require_eq_ok hm) (requirePin_eq_ok hp)) fun _ _ => .ok _

/-- The pin of a configured channel is a pin of the platform, so the poll checks no pin (42_soft_pwm.md R125). -/
theorem execSpwmPoll_answers (ch : BitVec 8) (h : s.Inv) : ∃ t, execSpwmPoll ch s = .next t := by
  have ⟨_, _, _, hsound⟩ := h
  refine command_answers (.bind (neverStops_require _ _) fun _ hch => .bind (neverStops_sampleClock s) fun _ _ => ?_)
  refine .bind (neverStops_require _ _) fun _ hm => .bind (neverStops_channelAt h (requireIndex_eq_ok hch)) fun c hc => ?_
  refine .bind (neverStops_require _ _) fun _ hcfg => ?_
  obtain ⟨hp, -⟩ := hsound c (List.mem_of_getElem? (present_eq_ok hc)) (require_eq_ok hcfg)
  split
  · exact .ok _
  · split
    · exact .bind (neverStops_digitalWriteTo _ h (require_eq_ok hm) hp) fun _ _ => .ok _
    · exact .ok _

theorem execHpwmSet_answers (ch : BitVec 8) (freq : BitVec 32) (duty : BitVec 17) (s : State) :
    ∃ t, execHpwmSet ch freq duty s = .next t := by
  refine command_answers (.bind (neverStops_require _ _) fun _ hch => .bind (neverStops_require _ _) fun _ hm => ?_)
  refine .bind (neverStops_require _ _) fun _ _ => .bind (neverStops_selection _ _) fun _ _ => ?_
  exact .of_eq_ok (writeNat_triple (require_eq_ok hm) (requireIndex_eq_ok hch) _)

/-- A channel of the platform has an enable bit (10_state.md R20). -/
theorem neverStops_enBit {c : Nat} (h : s.Inv) (hc : c < s.params.nhpwm) : NeverStops (present s.params.pwmEnBit[c]?) := by
  obtain ⟨⟨-, -, ⟨-, -, -, hlen, -⟩, -⟩, -⟩ := h
  exact neverStops_present (hlen.symm ▸ hc)

theorem execHpwmEnable_answers (ch : BitVec 8) (h : s.Inv) : ∃ t, execHpwmEnable ch s = .next t := by
  refine command_answers (.bind (neverStops_require _ _) fun _ hch => .bind (neverStops_require _ _) fun _ hm => ?_)
  have hc := requireIndex_eq_ok hch
  refine .bind (neverStops_routeChannel h hc) fun u hu => .bind (neverStops_enBit h hc) fun b _ => ?_
  obtain ⟨codes, rfl⟩ := routeChannel_eq_ok hu
  have hmapped : (s.withFsel codes).block.pwmMapped = true := require_eq_ok hm
  exact .bind (.of_eq_ok (memRead_ctl hmapped)) fun _ _ => .bind (.of_eq_ok (memWrite_ctl hmapped)) fun _ _ => .ok _

theorem execHpwmDisable_answers (ch : BitVec 8) (h : s.Inv) : ∃ t, execHpwmDisable ch s = .next t := by
  refine command_answers (.bind (neverStops_require _ _) fun _ hch => .bind (neverStops_require _ _) fun _ hm => ?_)
  refine .bind (neverStops_enBit h (requireIndex_eq_ok hch)) fun b _ => ?_
  have hmapped := require_eq_ok hm
  exact .bind (.of_eq_ok (memRead_ctl hmapped)) fun _ _ => .bind (.of_eq_ok (memWrite_ctl hmapped)) fun _ _ => .ok _

/-- Every command answers a next state. -/
theorem exec_answers (i : Instr) (h : s.Inv) : ∃ t, exec i s = .next t := by
  cases i with
  | gpioInit => exact execGpioInit_answers s
  | gpioCleanup => exact command_answers (.ok _)
  | pinMode pin mode => exact execPinMode_answers pin mode h
  | digitalWrite pin level => exact execDigitalWrite_answers pin level h
  | digitalRead pin => exact execDigitalRead_answers pin h
  | millis => exact execMillis_answers s
  | timerSet j interval => exact execTimerSet_answers j interval h
  | timerExpired j => exact execTimerExpired_answers j h
  | timerTick j => exact execTimerTick_answers j h
  | spwmCfg ch pin freq duty => exact execSpwmCfg_answers ch pin freq duty h
  | spwmPoll ch => exact execSpwmPoll_answers ch h
  | hpwmInit => exact execHpwmInit_answers s
  | hpwmCleanup => exact command_answers (.ok _)
  | hpwmSet ch freq duty => exact execHpwmSet_answers ch freq duty s
  | hpwmEnable ch => exact execHpwmEnable_answers ch h
  | hpwmDisable ch => exact execHpwmDisable_answers ch h

end

/-- Settles O12: a case split on the event a step takes; only a command can end in a stop of the model, and none does. -/
theorem stepNeverStops : Obligations.StepNeverStops := by
  intro s h
  match hscript : s.script with
  | [] => exact ⟨_, step_idle hscript⟩
  | .environment e :: rest => exact ⟨_, step_environment hscript⟩
  | .reset :: rest => exact ⟨_, step_reset hscript⟩
  | .command F :: rest =>
    cases hd : decode F with
    | none => exact ⟨_, step_illegal hscript hd⟩
    | some i =>
      rw [step_command hscript hd]
      exact exec_answers (s := s.withScript rest) i (h.congr rfl rfl)

end Sys2Proof.Machine
end

section
/-! PROOF. The encoding (O1 to O3): a row's mask keeps the whole `op` field and no two rows share an `op`, so a frame's row
is unique and decoding is reading that row; a covered frame is then written out format by format. -/

namespace Sys2Proof

/-! ### Reading a row field by field -/

/-- A row covers a frame exactly when it covers each of the frame's fields. -/
theorem OpcodeRow.covers_iff_fields {r : OpcodeRow} {F : Frame} :
    r.covers F = true ↔ F.op &&& r.mask.op = r.pattern.op ∧ F.a &&& r.mask.a = r.pattern.a ∧
      F.b &&& r.mask.b = r.pattern.b ∧ F.c &&& r.mask.c = r.pattern.c ∧ F.data &&& r.mask.data = r.pattern.data := by
  rw [OpcodeRow.covers, beq_iff_eq, ← Frame.ofFields_inj, ← Frame.ofFields_and]
  simp only [Frame.ofFields_fields]

/-! ### One row for a frame (30_encoding.md R65) -/

/-- The sixteen `op` values, in the order of the rows. -/
theorem opcodeTable_ops : opcodeTable.map (fun r => r.pattern.op) =
    [0x01#8, 0x02#8, 0x03#8, 0x04#8, 0x05#8, 0x10#8, 0x11#8, 0x12#8, 0x13#8, 0x20#8, 0x21#8, 0x30#8, 0x31#8,
      0x32#8, 0x33#8, 0x34#8] := by decide

theorem mask_op_of_mem_opcodeTable : ∀ r ∈ opcodeTable, r.mask.op = BitVec.allOnes 8 := by decide

theorem op_of_covers {r : OpcodeRow} {F : Frame} (hr : r ∈ opcodeTable) (h : r.covers F = true) :
    F.op = r.pattern.op := by
  obtain ⟨hop, -⟩ := OpcodeRow.covers_iff_fields.mp h
  rwa [mask_op_of_mem_opcodeTable r hr, BitVec.and_allOnes] at hop

theorem eq_of_pattern_op_eq {r r' : OpcodeRow} (hr : r ∈ opcodeTable) (hr' : r' ∈ opcodeTable)
    (h : r.pattern.op = r'.pattern.op) : r = r' := by
  have hnodup : (opcodeTable.map fun r => r.pattern.op).Nodup := by
    rw [opcodeTable_ops]
    decide
  exact List.inj_on_of_nodup_map hnodup hr hr' h

/-- Settles O3: the `op` of the frame is the `op` of each row that covers it. -/
theorem opcodeRowsDisjoint : Obligations.OpcodeRowsDisjoint :=
  fun _ _ hr _ hr' h h' => eq_of_pattern_op_eq hr hr' ((op_of_covers hr h).symm.trans (op_of_covers hr' h'))

/-! ### The decoder -/

/-- A frame decodes to a command exactly when some row covers the frame and reads that command from it. -/
theorem decode_eq_some_iff {F : Frame} {i : Instr} :
    decode F = some i ↔ ∃ r ∈ opcodeTable, r.covers F = true ∧ r.command F = i := by
  rw [decode, Option.map_eq_some_iff]
  constructor
  · rintro ⟨r, hfind, hi⟩
    exact ⟨r, List.mem_of_find?_eq_some hfind, List.find?_some (p := (OpcodeRow.covers · F)) hfind, hi⟩
  · rintro ⟨r, hr, hcov, hi⟩
    obtain ⟨r', hfind⟩ := Option.isSome_iff_exists.mp ((List.find?_isSome (p := (OpcodeRow.covers · F))).mpr ⟨r, hr, hcov⟩)
    have hcov' : r'.covers F = true := List.find?_some (p := (OpcodeRow.covers · F)) hfind
    obtain rfl : r' = r := opcodeRowsDisjoint F r' (List.mem_of_find?_eq_some hfind) r hr hcov' hcov
    exact ⟨r', hfind, hi⟩

theorem decode_eq_none_iff {F : Frame} : decode F = none ↔ ∀ r ∈ opcodeTable, r.covers F = false := by
  simp [decode]

/-! ### The frame of a command is in the table -/

theorem encode_in_table (i : Instr) : Laws.EncodeInTable.Statement i := by
  cases i with
  | gpioInit => exact Laws.EncodeInTable.gpioInit
  | gpioCleanup => exact Laws.EncodeInTable.gpioCleanup
  | pinMode pin mode => exact Laws.EncodeInTable.pinMode pin mode
  | digitalWrite pin level => exact Laws.EncodeInTable.digitalWrite pin level
  | digitalRead pin => exact Laws.EncodeInTable.digitalRead pin
  | millis => exact Laws.EncodeInTable.millis
  | timerSet t interval => exact Laws.EncodeInTable.timerSet t interval
  | timerExpired t => exact Laws.EncodeInTable.timerExpired t
  | timerTick t => exact Laws.EncodeInTable.timerTick t
  | spwmCfg ch pin freq duty => exact Laws.EncodeInTable.spwmCfg ch pin freq duty
  | spwmPoll ch => exact Laws.EncodeInTable.spwmPoll ch
  | hpwmInit => exact Laws.EncodeInTable.hpwmInit
  | hpwmCleanup => exact Laws.EncodeInTable.hpwmCleanup
  | hpwmSet ch freq duty => exact Laws.EncodeInTable.hpwmSet ch freq duty
  | hpwmEnable ch => exact Laws.EncodeInTable.hpwmEnable ch
  | hpwmDisable ch => exact Laws.EncodeInTable.hpwmDisable ch

/-- Settles O1: the frame of a command is in the table, and decoding is reading its one row. -/
theorem decodeOfEncode : Obligations.DecodeOfEncode :=
  fun i => decode_eq_some_iff.mpr (encode_in_table i)

/-! ### A covered frame, written out in its row's format (30_encoding.md R61, R62) -/

theorem bitField_of_and_eq_zero {c : BitVec 8} (h : c &&& 0xFE#8 = 0#8) : Frame.bitField (c.getLsbD 0) = c := by
  revert c
  decide

/-- A data field whose bits from 49 on are zero is a frequency and a duty. -/
theorem freqDuty_of_and_eq_zero {F : Frame} (h : F.data &&& 0xFFFE000000000000#64 = 0#64) :
    Frame.freqDuty F.freq F.duty = F.data := by
  apply BitVec.eq_of_getLsbD_eq
  intro i hi
  rw [Frame.getLsbD_freqDuty, Frame.freq, Frame.duty, BitVec.getLsbD_extractLsb', BitVec.getLsbD_extractLsb']
  by_cases hfreq : i < 32
  · simp [hfreq]
  by_cases hduty : i < 49
  · have hlow : i - 32 < 17 := by omega
    have hpos : 32 + (i - 32) = i := by omega
    simp [hfreq, hlow, hpos]
  · have hmask : (0xFFFE000000000000#64).getLsbD i = true := by interval_cases i <;> rfl
    have hzero : F.data.getLsbD i = false := by
      simpa only [BitVec.getLsbD_and, hmask, Bool.and_true, BitVec.getLsbD_zero] using congrArg (BitVec.getLsbD · i) h
    have hhigh : ¬ i - 32 < 17 := by omega
    simp [hfreq, hhigh, hzero]

theorem bitField_mode {F : Frame} (h : F.c &&& 0xFE#8 = 0#8) : Frame.bitField F.mode.toBit = F.c := by
  rw [Frame.mode, Mode.toBit_ofBit, bitField_of_and_eq_zero h]

theorem bitField_level {F : Frame} (h : F.c &&& 0xFE#8 = 0#8) : Frame.bitField F.level.toBit = F.c := by
  rw [Frame.level, Level.toBit_ofBit, bitField_of_and_eq_zero h]

/-- A field that the row's mask covers whole holds the row's value. -/
theorem eq_of_and_allOnes {w : Nat} {x y : BitVec w} (h : x &&& BitVec.allOnes w = y) : y = x := by
  rw [← h, BitVec.and_allOnes]

/-- A covered frame is the frame of the given fields, if each of them follows from what the row asks of that field. -/
theorem ofFields_eq_of_covers {r : OpcodeRow} {F : Frame} {op a b c : BitVec 8} {d : BitVec 64} (h : r.covers F = true)
    (hop : F.op &&& r.mask.op = r.pattern.op → op = F.op) (ha : F.a &&& r.mask.a = r.pattern.a → a = F.a)
    (hb : F.b &&& r.mask.b = r.pattern.b → b = F.b) (hc : F.c &&& r.mask.c = r.pattern.c → c = F.c)
    (hd : F.data &&& r.mask.data = r.pattern.data → d = F.data) : Frame.ofFields op a b c d = F := by
  obtain ⟨hop', ha', hb', hc', hd'⟩ := OpcodeRow.covers_iff_fields.mp h
  rw [hop hop', ha ha', hb hb', hc hc', hd hd', Frame.ofFields_fields]

/-- The row drops no bit: a frame it covers is the frame of the command it reads. -/
def OpcodeRow.Lossless (r : OpcodeRow) : Prop := ∀ F, r.covers F = true → encode (r.command F) = F

/-- A row without operands: its mask is the whole frame. -/
theorem lossless_of_plainRow {r : OpcodeRow} (hm : r.mask = BitVec.allOnes 96)
    (hi : ∀ F, encode (r.command F) = r.pattern) : r.Lossless := by
  intro F h
  rw [OpcodeRow.covers, hm, beq_iff_eq] at h
  rw [hi, eq_of_and_allOnes h]

/-- A row whose one operand is the field `a`. -/
theorem lossless_of_operandRow {r : OpcodeRow} (op : BitVec 8) (hm : r.mask = 0xFF00FFFFFFFFFFFFFFFFFFFF#96)
    (hp : r.pattern = Frame.ofFields op 0 0 0 0) (hi : ∀ F, encode (r.command F) = Frame.ofFields op F.a 0 0 0) :
    r.Lossless := by
  intro F h
  rw [hi]
  refine ofFields_eq_of_covers h ?_ (fun _ => rfl) ?_ ?_ ?_ <;>
    simp only [hm, hp, Frame.op_ofFields, Frame.b_ofFields, Frame.c_ofFields, Frame.data_ofFields] <;>
    exact eq_of_and_allOnes

theorem gpioRows_lossless : ∀ r ∈ gpioRows, r.Lossless := by
  simp only [gpioRows, List.forall_mem_cons]
  refine ⟨lossless_of_plainRow rfl fun _ => rfl, lossless_of_plainRow rfl fun _ => rfl, fun F h => ?_, fun F h => ?_,
    lossless_of_operandRow 0x05#8 rfl rfl fun _ => rfl, List.forall_mem_nil _⟩
  · exact ofFields_eq_of_covers h eq_of_and_allOnes (fun _ => rfl) eq_of_and_allOnes bitField_mode eq_of_and_allOnes
  · exact ofFields_eq_of_covers h eq_of_and_allOnes (fun _ => rfl) eq_of_and_allOnes bitField_level eq_of_and_allOnes

theorem clockRows_lossless : ∀ r ∈ clockRows, r.Lossless := by
  simp only [clockRows, List.forall_mem_cons]
  refine ⟨lossless_of_plainRow rfl fun _ => rfl, fun F h => ?_, lossless_of_operandRow 0x12#8 rfl rfl fun _ => rfl,
    lossless_of_operandRow 0x13#8 rfl rfl fun _ => rfl, List.forall_mem_nil _⟩
  exact ofFields_eq_of_covers h eq_of_and_allOnes (fun _ => rfl) eq_of_and_allOnes eq_of_and_allOnes fun _ => rfl

theorem spwmRows_lossless : ∀ r ∈ spwmRows, r.Lossless := by
  simp only [spwmRows, List.forall_mem_cons]
  refine ⟨fun F h => ?_, lossless_of_operandRow 0x21#8 rfl rfl fun _ => rfl, List.forall_mem_nil _⟩
  exact ofFields_eq_of_covers h eq_of_and_allOnes (fun _ => rfl) (fun _ => rfl) eq_of_and_allOnes freqDuty_of_and_eq_zero

theorem hpwmRows_lossless : ∀ r ∈ hpwmRows, r.Lossless := by
  simp only [hpwmRows, List.forall_mem_cons]
  refine ⟨lossless_of_plainRow rfl fun _ => rfl, lossless_of_plainRow rfl fun _ => rfl, fun F h => ?_,
    lossless_of_operandRow 0x33#8 rfl rfl fun _ => rfl, lossless_of_operandRow 0x34#8 rfl rfl fun _ => rfl,
    List.forall_mem_nil _⟩
  exact ofFields_eq_of_covers h eq_of_and_allOnes (fun _ => rfl) eq_of_and_allOnes eq_of_and_allOnes freqDuty_of_and_eq_zero

theorem opcodeTable_lossless : ∀ r ∈ opcodeTable, r.Lossless := by
  simp only [opcodeTable, List.forall_mem_append]
  exact ⟨⟨⟨gpioRows_lossless, clockRows_lossless⟩, spwmRows_lossless⟩, hpwmRows_lossless⟩

/-- Settles O2: the row that decodes the frame drops none of its bits. -/
theorem encodeOfDecode : Obligations.EncodeOfDecode := by
  intro F i h
  obtain ⟨r, hr, hcov, rfl⟩ := decode_eq_some_iff.mp h
  exact opcodeTable_lossless r hr F hcov

end Sys2Proof
end

section
/-! PROOF. What is answered with `IllegalCommand`, and what is not answered (O5, O6, O18). -/

namespace Sys2Proof.Machine

/-! ### Frames that no row covers (30_encoding.md R66) -/

/-- The whole next state is given, and it does not depend on the inputs: no clock is sampled. -/
theorem step_uncovered {s : State} {F : Frame} {rest : List Event} (hscript : s.script = .command F :: rest)
    (hrun : s.block.halted = false) (h : ∀ r ∈ opcodeTable, r.covers F = false) :
    step s = .next ((s.withScript rest).raise .illegalCommand) := by
  rw [step_illegal hscript (decode_eq_none_iff.mpr h), hrun]
  rfl

theorem uncovered_of_op_not_mem {F : Frame} (h : F.op ∉ opcodeTable.map fun r => r.pattern.op) :
    ∀ r ∈ opcodeTable, r.covers F = false := by
  intro r hr
  rw [← Bool.not_eq_true]
  intro hcov
  exact h (List.mem_map.mpr ⟨r, hr, (op_of_covers hr hcov).symm⟩)

/-- Only the row with the frame's `op` could cover the frame. -/
theorem uncovered_of_own_row {F : Frame} {r : OpcodeRow} (hr : r ∈ opcodeTable) (hop : F.op = r.pattern.op)
    (h : F &&& r.mask ≠ r.pattern) : ∀ r' ∈ opcodeTable, r'.covers F = false := by
  intro r' hr'
  rw [← Bool.not_eq_true]
  intro hcov
  obtain rfl : r' = r := eq_of_pattern_op_eq hr' hr ((op_of_covers hr' hcov).symm.trans hop)
  exact h (beq_iff_eq.mp hcov)

/-- Settles O5: the step of a frame that does not decode, and the two sorts of frame no row covers. -/
theorem uncoveredFrameIsIllegal : Obligations.UncoveredFrameIsIllegal := by
  refine ⟨fun s F rest hscript hrun h => ?_, fun F h => ?_, fun F r hr hop h => uncovered_of_own_row hr hop h⟩
  · exact ⟨_, step_uncovered hscript hrun h, rfl, rfl, rfl, rfl, rfl⟩
  · exact uncovered_of_op_not_mem (opcodeTable_ops ▸ h)

/-! ### Index operands (30_encoding.md R67) -/

/-- A body that begins with the index check is answered with `IllegalCommand` when the check fails, whatever it does next. -/
theorem command_badIndex {s : State} {j : BitVec 8} {n : Nat} {body : Unit → Act (Data × State)}
    (hrun : s.block.halted = false) (h : ¬ j.toNat < n) :
    command s (requireIndex j n >>= body) = .next (s.raise .illegalCommand) := by
  rw [command_running _ hrun, requireIndex_error h, act_bind_error, conclude_raise]

/-- Every command that has an index operand makes the index check first. -/
theorem exec_badIndex {i : Instr} {s : State} (hrun : s.block.halted = false) (h : ¬ i.WellFormed s.params) :
    exec i s = .next (s.raise .illegalCommand) := by
  cases i with
  | gpioInit | gpioCleanup | pinMode | digitalWrite | digitalRead | millis | hpwmInit | hpwmCleanup =>
    exact absurd trivial h
  | timerSet | timerExpired | timerTick | spwmCfg | spwmPoll | hpwmSet | hpwmEnable | hpwmDisable =>
    exact command_badIndex hrun h

theorem ErrorKind.eq_illegalCommand_of_code {e : ErrorKind} (h : e.code = 6#8) : e = .illegalCommand := by
  cases e with
  | illegalCommand => rfl
  | hardwareAccess | notInitialized | invalidPin | invalidPinState | invalidConfiguration =>
    exact absurd h (by decide)

/-- Settles O6: status 6 comes of the index check alone, by the list of a command's ends. -/
theorem indexOutsideFileIsIllegal : Obligations.IndexOutsideFileIsIllegal := by
  refine ⟨fun i s hrun h => ⟨_, exec_badIndex hrun h, rfl, rfl, rfl, rfl, rfl⟩, fun i s t r ht hr hcode => ?_⟩
  obtain ⟨-, rfl⟩ | ⟨-, ⟨d, u, -, rfl⟩ | ⟨e, ⟨-, hill⟩, rfl⟩ | ⟨-, -, -, rfl⟩⟩ := exec_ends ht
  · cases hr
  · obtain rfl : ⟨0#8, d⟩ = r := by simpa using hr
    exact absurd (show 0#8 = 6#8 from hcode) (by decide)
  · obtain rfl : ⟨e.code, 0#64⟩ = r := by simpa using hr
    exact hill (ErrorKind.eq_illegalCommand_of_code hcode)
  · cases hr

/-! ### Halting and silence (60_exceptions.md R169) -/

/-- No completed command writes the halted flag. -/
theorem Written.halted_eq {i : Instr} {s u : State} (h : Written s i u) : u.block.halted = s.block.halted := by
  cases h <;> rfl

/-- Settles O18: of the ends of a command, only the loss of the clock gives no response or sets the halted flag. -/
theorem onlyClockLossSilences : Obligations.OnlyClockLossSilences := by
  intro i s t hrun ht h
  obtain ⟨hhalted, -⟩ | ⟨-, ⟨d, u, he, rfl⟩ | ⟨e, -, rfl⟩ | ⟨hsamples, hwf, hclock, -⟩⟩ := exec_ends ht
  · rw [hrun] at hhalted
    cases hhalted
  · have hu : u.block.halted = false := (effect_written he).halted_eq.trans hrun
    simp [hu] at h
  · simp [hrun] at h
  · exact ⟨hsamples, hwf, hclock⟩

end Sys2Proof.Machine
end

section
/-! PROOF. The clock and the timers (O17, O19, O20, O35 to O42). -/

namespace Sys2Proof.Machine

/-! ### Time arithmetic (40_clock_timer.md R84) -/

theorem add64_toNat (a b : Time) : (add64 a b).toNat = (a.toNat + b.toNat) % 2 ^ 64 := BitVec.toNat_add a b

theorem sub64_toNat (a b : Time) : (sub64 a b).toNat = (a.toNat + (2 ^ 64 - b.toNat)) % 2 ^ 64 := by
  rw [sub64, BitVec.toNat_sub, Nat.add_comm]

theorem reached_of_le {now t : Time} (hle : t.toNat ≤ now.toNat) (hdist : now.toNat - t.toNat < 2 ^ 63) :
    reached now t = true := by
  rw [reached_eq_true, BitVec.toNat_sub_of_le hle]
  exact hdist

theorem not_reached_of_lt {now t : Time} (hlt : now.toNat < t.toNat) (hdist : t.toNat - now.toNat ≤ 2 ^ 63) :
    reached now t = false := by
  rw [reached_eq_false, BitVec.toNat_sub_of_lt hlt]
  omega

/-- Settles O39. -/
theorem reachedAgreesWithGe : Obligations.ReachedAgreesWithGe :=
  ⟨add64_toNat, sub64_toNat, fun _ _ => reached_eq_true, fun _ _ => reached_of_le, fun _ _ => not_reached_of_lt,
    by decide⟩

/-- Only the time gone by since an instant decides whether a deadline counted from it is reached. -/
theorem reached_add64 (now start interval : Time) :
    reached now (add64 start interval) = reached (now - start) interval := by
  rw [reached, reached, sub64, sub64, add64, BitVec.sub_sub]

/-- A deadline at most `2^63` after its start is reached when its interval has gone by, and not before. -/
theorem reached_add64_eq {now start interval : Time} (hinterval : interval.toNat ≤ 2 ^ 63)
    (helapsed : (now - start).toNat < 2 ^ 63) :
    reached now (add64 start interval) = decide (interval.toNat ≤ (now - start).toNat) := by
  rw [reached_add64]
  by_cases h : interval.toNat ≤ (now - start).toNat
  · rw [decide_eq_true h, reached_of_le h (by omega)]
  · rw [decide_eq_false h, not_reached_of_lt (by omega) (by omega)]

/-! ### The meaning of a command with a clock and a slot -/

section
variable {s : State} {t : BitVec 8} {slot : Timer}

theorem timerAt_ok (hslot : s.block.timers[t.toNat]? = some slot) : timerAt s t = .ok slot := by
  rw [timerAt, hslot, present_some]

theorem exec_millis (hrun : s.block.halted = false) (hclock : s.env.clockOk = true) :
    exec .millis s = .next (s.answer s.env.nowMs) := by
  change execMillis s = _
  rw [execMillis, command_running _ hrun, sampleClock_ok hclock]
  rfl

theorem exec_timerSet (interval : BitVec 64) (hrun : s.block.halted = false) (ht : t.toNat < s.params.ntimer)
    (hlen : s.block.timers.length = s.params.ntimer) (hclock : s.env.clockOk = true) :
    exec (.timerSet t interval) s = .next ((setTimer s t ⟨interval, add64 s.env.nowMs interval⟩).answer 0#64) := by
  have hslot := timerAt_ok (List.getElem?_eq_getElem (hlen.symm ▸ ht))
  change execTimerSet t interval s = _
  simp [execTimerSet, command_running _ hrun, requireIndex_ok ht, sampleClock_ok hclock, hslot]

theorem exec_timerExpired (hrun : s.block.halted = false) (ht : t.toNat < s.params.ntimer)
    (hslot : s.block.timers[t.toNat]? = some slot) (hclock : s.env.clockOk = true) :
    exec (.timerExpired t) s = .next (s.answer (bitData (reached s.env.nowMs slot.nextExpiry))) := by
  change execTimerExpired t s = _
  simp [execTimerExpired, command_running _ hrun, requireIndex_ok ht, sampleClock_ok hclock, timerAt_ok hslot]

theorem exec_timerTick_reached (hrun : s.block.halted = false) (ht : t.toNat < s.params.ntimer)
    (hslot : s.block.timers[t.toNat]? = some slot) (hclock : s.env.clockOk = true)
    (hreached : reached s.env.nowMs slot.nextExpiry = true) :
    exec (.timerTick t) s =
      .next ((setTimer s t ⟨slot.interval, add64 slot.nextExpiry slot.interval⟩).answer 1#64) := by
  change execTimerTick t s = _
  simp [execTimerTick, command_running _ hrun, requireIndex_ok ht, sampleClock_ok hclock, timerAt_ok hslot, hreached]

theorem exec_timerTick_waiting (hrun : s.block.halted = false) (ht : t.toNat < s.params.ntimer)
    (hslot : s.block.timers[t.toNat]? = some slot) (hclock : s.env.clockOk = true)
    (hwaiting : reached s.env.nowMs slot.nextExpiry = false) : exec (.timerTick t) s = .next (s.answer 0#64) := by
  change execTimerTick t s = _
  simp [execTimerTick, command_running _ hrun, requireIndex_ok ht, sampleClock_ok hclock, timerAt_ok hslot, hwaiting]

theorem setTimer_slot (v : Timer) (hlen : t.toNat < s.block.timers.length) :
    (setTimer s t v).block.timers[t.toNat]? = some v :=
  List.getElem?_set_self hlen

theorem setTimer_self (hslot : s.block.timers[t.toNat]? = some slot) : setTimer s t slot = s := by
  obtain ⟨hlen, rfl⟩ := List.getElem?_eq_some_iff.mp hslot
  rw [setTimer, List.set_getElem_self, State.withTimers_self]

end

/-! ### Without a clock (40_clock_timer.md R81, R82) -/

/-- A body that samples the clock right after the index check halts the block, whatever it does next. -/
theorem command_noClock {s : State} {j : BitVec 8} {n : Nat} {body : Time → Act (Data × State)}
    (hrun : s.block.halted = false) (hj : j.toNat < n) (hclock : s.env.clockOk = false) :
    command s (requireIndex j n >>= fun _ => sampleClock s >>= body) = .next s.halt := by
  rw [command_running _ hrun, requireIndex_ok hj, act_bind_ok, sampleClock_halt hclock, act_bind_error, conclude_halt]

/-- A command that samples the clock does so before every check but that of its index. -/
theorem exec_noClock {i : Instr} {s : State} (hrun : s.block.halted = false) (hwf : i.WellFormed s.params)
    (hsamples : samplesClock i = true) (hclock : s.env.clockOk = false) : exec i s = .next s.halt := by
  cases i with
  | millis =>
    change execMillis s = _
    rw [execMillis, command_running _ hrun, sampleClock_halt hclock, act_bind_error, conclude_halt]
  | timerSet | timerExpired | timerTick | spwmCfg | spwmPoll => exact command_noClock hrun hwf hclock
  | gpioInit | gpioCleanup | pinMode | digitalWrite | digitalRead | hpwmInit | hpwmCleanup | hpwmSet | hpwmEnable
  | hpwmDisable => cases hsamples

/-- Settles O17. -/
theorem clockLossHalts : Obligations.ClockLossHalts :=
  fun _ s hrun hwf hsamples hclock =>
    ⟨_, exec_noClock hrun hwf hsamples hclock, s.halt_block, s.halt_rsp, s.halt_params, s.halt_env, s.halt_script⟩

/-! ### One command (40_clock_timer.md R83 to R89) -/

/-- Settles O35. -/
theorem millisReturnsNow : Obligations.MillisReturnsNow :=
  fun _ hrun => ⟨exec_millis hrun, exec_noClock hrun trivial rfl⟩

/-- Settles O36. -/
theorem timerSetArmsSlot : Obligations.TimerSetArmsSlot :=
  fun _ _ interval hrun ht hlen hclock => exec_timerSet interval hrun ht hlen hclock

/-- Settles O37: the test is `reached`, by its definition in R84. -/
theorem timerExpiredTestsDeadline : Obligations.TimerExpiredTestsDeadline := by
  intro s t slot hrun ht hslot hclock
  rw [exec_timerExpired hrun ht hslot hclock, bitData]
  simp only [reached_eq_true]

/-- Settles O38. -/
theorem timerTickRearmsOnce : Obligations.TimerTickRearmsOnce :=
  fun _ _ _ hrun ht hslot hclock =>
    ⟨exec_timerTick_reached hrun ht hslot hclock, exec_timerTick_waiting hrun ht hslot hclock⟩

/-! ### A timer after it is set (40_clock_timer.md R85 to R87) -/

/-- What a later poll needs of the state that `TIMER_SET` leaves. -/
theorem exec_timerSet_arms {s : State} {t : BitVec 8} (interval : BitVec 64) (hrun : s.block.halted = false)
    (ht : t.toNat < s.params.ntimer) (hlen : s.block.timers.length = s.params.ntimer) (hclock : s.env.clockOk = true) :
    ∃ u, exec (.timerSet t interval) s = .next u ∧ u.block.halted = false ∧ t.toNat < u.params.ntimer ∧
      u.env.clockOk = true ∧ u.block.timers[t.toNat]? = some ⟨interval, add64 s.env.nowMs interval⟩ :=
  ⟨_, exec_timerSet interval hrun ht hlen hclock, hrun, ht, hclock, setTimer_slot _ (hlen.symm ▸ ht)⟩

/-- Settles O40: the slot holds the deadline `now + i`, and only the time gone by decides whether that is reached. -/
theorem timerExpiresAfterItsInterval : Obligations.TimerExpiresAfterItsInterval := by
  intro s t i now hrun ht hlen hclock hinterval helapsed
  obtain ⟨u, hset, hrun', ht', hclock', hslot⟩ := exec_timerSet_arms i hrun ht hlen hclock
  have hpoll := exec_timerExpired (s := u.atTime now) hrun' ht' hslot hclock'
  rw [State.withEnv_env, reached_add64_eq hinterval helapsed, bitData] at hpoll
  exact ⟨u, hset, by simpa only [decide_eq_true_eq] using hpoll⟩

/-- Settles O41: the deadline is reached from the start, and a re-arm by 0 stores the slot as it is. -/
theorem zeroIntervalFiresForEver : Obligations.ZeroIntervalFiresForEver := by
  intro s t now hrun ht hlen hclock helapsed
  have hadd (x : Time) : add64 x 0#64 = x := BitVec.add_zero x
  obtain ⟨u, hset, hrun', ht', hclock', hslot⟩ := exec_timerSet_arms 0#64 hrun ht hlen hclock
  rw [hadd] at hslot
  have hreached : reached (u.atTime now).env.nowMs s.env.nowMs = true := reached_eq_true.mpr helapsed
  have hpoll := exec_timerExpired (s := u.atTime now) hrun' ht' hslot hclock'
  have htick := exec_timerTick_reached (s := u.atTime now) hrun' ht' hslot hclock' hreached
  rw [hreached] at hpoll
  rw [hadd, setTimer_self (s := u.atTime now) hslot] at htick
  exact ⟨u, hset, hslot, hpoll, htick⟩

/-! ### The ticks after a stall (40_clock_timer.md R90) -/

/-- A command after a list of commands. -/
theorem execAll_append_singleton {l : List Instr} {i : Instr} {s u : State} (h : execAll l s = .next u) :
    execAll (l ++ [i]) s = exec i u := by
  induction l generalizing s with
  | nil =>
    obtain rfl : s = u := by simpa [execAll] using h
    rw [List.nil_append, execAll]
    cases exec i s <;> rfl
  | cons j l ih =>
    rw [execAll] at h
    rw [List.cons_append, execAll]
    cases hj : exec j s with
    | next v =>
      rw [hj] at h
      exact ih h
    | fault f => simp [hj] at h
    | refused r => simp [hj] at h

/-- The deadline of a slot armed at `t0` that has fired `k` times, `t0 + (k+1)*I` (40_clock_timer.md R90). -/
def deadlineAfter (t0 interval : Time) (k : Nat) : Time := BitVec.ofNat 64 (t0.toNat + (k + 1) * interval.toNat)

theorem deadlineAfter_zero (t0 interval : Time) : deadlineAfter t0 interval 0 = t0 + interval := by
  apply BitVec.eq_of_toNat_eq
  simp [deadlineAfter]

theorem deadlineAfter_succ (t0 interval : Time) (k : Nat) :
    deadlineAfter t0 interval (k + 1) = add64 (deadlineAfter t0 interval k) interval := by
  apply BitVec.eq_of_toNat_eq
  simp [deadlineAfter, add64, Nat.add_one_mul (k + 1), Nat.add_assoc]

theorem deadlineAfter_toNat {t0 interval : Time} {k : Nat} (h : t0.toNat + (k + 1) * interval.toNat < 2 ^ 64) :
    (deadlineAfter t0 interval k).toNat = t0.toNat + (k + 1) * interval.toNat := by
  rw [deadlineAfter, BitVec.toNat_ofNat, Nat.mod_eq_of_lt h]

/-- `u` is a state with the platform and the inputs of `s` in which slot `t`, armed at `t0`, has fired `k` times. -/
structure FiredTimes (s : State) (t : BitVec 8) (t0 interval : Time) (k : Nat) (u : State) : Prop where
  running : u.block.halted = false
  params : u.params = s.params
  env : u.env = s.env
  slot : u.block.timers[t.toNat]? = some ⟨interval, deadlineAfter t0 interval k⟩

section
variable {s : State} {t : BitVec 8} {t0 interval : Time} {m r k : Nat}

/-- A slot that has fired fewer than `m` times by `t0 + m*I + r` is due. -/
theorem reached_deadlineAfter (hnow : s.env.nowMs.toNat = t0.toNat + m * interval.toNat + r) (hr : r < interval.toNat)
    (hwrap : t0.toNat + (m + 1) * interval.toNat < 2 ^ 64) (hspan : (m + 1) * interval.toNat ≤ 2 ^ 63) (hk : k < m) :
    reached s.env.nowMs (deadlineAfter t0 interval k) = true := by
  have hle : (k + 1) * interval.toNat ≤ m * interval.toNat := Nat.mul_le_mul_right _ hk
  rw [Nat.add_one_mul m] at hwrap hspan
  have hdue := deadlineAfter_toNat (t0 := t0) (interval := interval) (k := k) (by omega)
  exact reached_of_le (by omega) (by omega)

/-- A slot that has fired `m` times waits until `t0 + (m+1)*I`. -/
theorem not_reached_deadlineAfter (hnow : s.env.nowMs.toNat = t0.toNat + m * interval.toNat + r)
    (hr : r < interval.toNat) (hwrap : t0.toNat + (m + 1) * interval.toNat < 2 ^ 64)
    (hspan : (m + 1) * interval.toNat ≤ 2 ^ 63) : reached s.env.nowMs (deadlineAfter t0 interval m) = false := by
  have hdue := deadlineAfter_toNat hwrap
  rw [Nat.add_one_mul m] at hdue hspan
  exact not_reached_of_lt (by omega) (by omega)

/-- A due slot fires once and then has fired once more. -/
theorem FiredTimes.tick {u : State} (h : FiredTimes s t t0 interval k u) (ht : t.toNat < s.params.ntimer)
    (hclock : s.env.clockOk = true)
    (hdue : reached s.env.nowMs (deadlineAfter t0 interval k) = true) :
    ∃ v, exec (.timerTick t) u = .next v ∧ v.rsp = some ⟨0#8, 1#64⟩ ∧ FiredTimes s t t0 interval (k + 1) v := by
  obtain ⟨hrun, hparams, henv, hslot⟩ := h
  have htick := exec_timerTick_reached hrun (hparams ▸ ht) hslot (henv ▸ hclock) (henv ▸ hdue)
  rw [← deadlineAfter_succ] at htick
  exact ⟨_, htick, rfl, hrun, hparams, henv, setTimer_slot _ (List.getElem?_eq_some_iff.mp hslot).1⟩

/-- As long as the slot is due, each of `k` ticks fires. -/
theorem FiredTimes.replay (h : FiredTimes s t t0 interval 0 s) (ht : t.toNat < s.params.ntimer)
    (hclock : s.env.clockOk = true)
    (hdue : ∀ j < k, reached s.env.nowMs (deadlineAfter t0 interval j) = true) :
    ∃ u, execAll (List.replicate k (.timerTick t)) s = .next u ∧ (1 ≤ k → u.rsp = some ⟨0#8, 1#64⟩) ∧
      FiredTimes s t t0 interval k u := by
  induction k with
  | zero => exact ⟨s, rfl, by omega, h⟩
  | succ k ih =>
    obtain ⟨u, hrun, -, hfired⟩ := ih fun j hj => hdue j (by omega)
    obtain ⟨v, htick, hrsp, hfired'⟩ := hfired.tick ht hclock (hdue k (by omega))
    rw [List.replicate_succ', execAll_append_singleton hrun]
    exact ⟨v, htick, fun _ => hrsp, hfired'⟩

end

/-- Settles O42: the slot is due while it has fired fewer than `m` times, then its deadline is ahead of the clock. -/
theorem missedIntervalsAreReplayed : Obligations.MissedIntervalsAreReplayed := by
  intro s t t0 interval m r hrun ht hclock hslot _ hr hnow hwrap hspan
  have harmed : FiredTimes s t t0 interval 0 s := ⟨hrun, rfl, rfl, by rw [hslot, deadlineAfter_zero]⟩
  have hreplay (k : Nat) (hk : k ≤ m) := harmed.replay (k := k) ht hclock fun j hj =>
    reached_deadlineAfter hnow hr hwrap hspan (Nat.lt_of_lt_of_le hj hk)
  refine ⟨fun k hk₁ hk => ?_, ?_⟩
  · obtain ⟨u, hticks, hrsp, hfired⟩ := hreplay k hk
    exact ⟨u, hticks, hrsp hk₁, hfired.slot⟩
  · obtain ⟨u, hticks, -, hfired⟩ := hreplay m (Nat.le_refl m)
    have hwait := exec_timerTick_waiting hfired.running (hfired.params ▸ ht) hfired.slot (hfired.env ▸ hclock)
      (hfired.env ▸ not_reached_deadlineAfter hnow hr hwrap hspan)
    rw [List.replicate_succ', execAll_append_singleton hticks]
    exact ⟨_, hwait, rfl, hfired.slot⟩

/-! ### The samples of a run (40_clock_timer.md R80) -/

theorem millis_samples (P : Params) :
    ∃ i, decode (encode .millis) = some i ∧ i.WellFormed P ∧ samplesClock i = true :=
  ⟨.millis, decodeOfEncode _, trivial, rfl⟩

/-- Past a command the law holds of a last sample that is not smaller: the command's own, or the one before. -/
theorem ClockLaw.command {P : Params} {last now : Time} {F : Frame} {rest : List Event}
    (h : ClockLaw P (some last) now (.command F :: rest)) :
    ∃ last', last.toNat ≤ last'.toNat ∧ ClockLaw P (some last') now rest := by
  obtain ⟨hsampled, hother⟩ := h
  by_cases hF : ∃ i, decode F = some i ∧ i.WellFormed P ∧ samplesClock i = true
  · obtain ⟨hle, hrest⟩ := hsampled hF
    exact ⟨now, hle last rfl, hrest⟩
  · exact ⟨last, Nat.le_refl _, hother hF⟩

/-- A frame, whatever it is, leaves the parameters, the inputs and the rest of the port. -/
theorem step_command_surroundings {s t : State} {F : Frame} {rest : List Event} (hscript : s.script = .command F :: rest)
    (h : step s = .next t) : t.params = s.params ∧ t.env = s.env ∧ t.script = rest := by
  cases hd : decode F with
  | none =>
    rw [step_illegal hscript hd] at h
    obtain rfl := Host.Outcome.next.inj h
    split <;> exact ⟨rfl, rfl, rfl⟩
  | some i =>
    rw [step_command hscript hd] at h
    exact commandsKeepTheirSurroundings i _ t h

/-- A `MILLIS` that is answered returns the time of its step. -/
theorem step_millis_data {s t : State} {rest : List Event} {d : Data}
    (hscript : s.script = .command (encode .millis) :: rest) (h : step s = .next t) (hr : t.rsp = some ⟨0#8, d⟩) :
    d = s.env.nowMs := by
  rw [step_command hscript (decodeOfEncode .millis)] at h
  cases hrun : s.block.halted with
  | true =>
    rw [exec_halted _ (by exact hrun)] at h
    obtain rfl := Host.Outcome.next.inj h
    cases hr
  | false =>
    obtain ⟨_, ⟨hd, -⟩, -⟩ := exec_answered (by exact hrun) h hr
    exact hd

/-- A `MILLIS` at the end of a run without a reset returns no less than a sample before the run. -/
theorem last_le_millis {mid : List Event} {s u : State} {last : Time} {d : Data}
    (hscript : s.script = mid ++ [.command (encode .millis)]) (hreset : ∀ e ∈ mid, e ≠ .reset)
    (hlaw : ClockLaw s.params (some last) s.env.nowMs s.script) (hrun : Sys2Proof.core.run (mid.length + 1) s = .next u)
    (hr : u.rsp = some ⟨0#8, d⟩) : last.toNat ≤ d.toNat := by
  obtain ⟨t, hstep, hrest⟩ := core_run_inv hrun
  induction mid generalizing s t last with
  | nil =>
    obtain rfl := Host.Outcome.next.inj hrest
    rw [step_millis_data hscript hstep hr]
    rw [hscript] at hlaw
    obtain ⟨hsampled, -⟩ := hlaw
    obtain ⟨hle, -⟩ := hsampled (millis_samples _)
    exact hle last rfl
  | cons e mid ih =>
    obtain ⟨v, hstep', hrest'⟩ := core_run_inv hrest
    have hreset' : ∀ e ∈ mid, e ≠ .reset := fun e he => hreset e (List.mem_cons_of_mem _ he)
    cases e with
    | command F =>
      obtain ⟨hparams, henv, htail⟩ := step_command_surroundings hscript hstep
      rw [hscript] at hlaw
      obtain ⟨last', hle, hlaw'⟩ := hlaw.command
      rw [← hparams, ← henv, ← htail] at hlaw'
      exact hle.trans (ih htail hreset' hlaw' hrest v hstep' hrest')
    | environment e =>
      rw [step_environment hscript] at hstep
      obtain rfl := Host.Outcome.next.inj hstep
      rw [hscript] at hlaw
      exact ih rfl hreset' hlaw hrest v hstep' hrest'
    | reset => exact absurd rfl (hreset _ List.mem_cons_self)

/-- Settles O20: the first value is a sample, and the law bounds every later one by it from below. -/
theorem millisNeverDecreases : Obligations.MillisNeverDecreases := by
  intro s t u mid d₁ d₂ hscript hreset hlaw hstep hr₁ hrun hr₂
  obtain ⟨hparams, henv, htail⟩ := step_command_surroundings hscript hstep
  rw [step_millis_data hscript hstep hr₁]
  rw [hscript] at hlaw
  obtain ⟨hsampled, -⟩ := hlaw
  obtain ⟨-, hlaw'⟩ := hsampled (millis_samples _)
  rw [← hparams, ← henv, ← htail] at hlaw'
  rw [core_run_next hstep] at hrun
  have hle := last_le_millis htail hreset hlaw' hrun hr₂
  rwa [henv] at hle

/-! ### The commands that do not sample the clock (40_clock_timer.md R82) -/

/-- The state with another time and another `clock_ok`. -/
def State.withClock (s : State) (now : Time) (ok : Bool) : State :=
  s.withEnv { s.env with nowMs := now, clockOk := ok }

section
variable (s : State) (now : Time) (ok : Bool)

theorem requireGpio_withClock : requireGpio (s.withClock now ok) = requireGpio s := rfl
theorem requirePwm_withClock : requirePwm (s.withClock now ok) = requirePwm s := rfl
theorem requirePin_withClock (pin : BitVec 8) : requirePin (s.withClock now ok) pin = requirePin s pin := rfl
theorem access_withClock (a : RegAddr) : access (s.withClock now ok) a = access s a := rfl
theorem memRead_withClock (a : RegAddr) : memRead (s.withClock now ok) a = memRead s a := rfl
theorem State.withClock_params : (s.withClock now ok).params = s.params := rfl

theorem writeLines_withClock (a : RegAddr) (v : BusWord) :
    writeLines (s.withClock now ok) a v = (writeLines s a v).withClock now ok := by
  cases a <;> rfl

/-- A bank write does the same under another clock. -/
theorem memWrite_withClock (a : RegAddr) (v : BusWord) :
    memWrite (s.withClock now ok) a v = (fun u => u.withClock now ok) <$> memWrite s a v := by
  rw [memWrite, memWrite, access_withClock, writeLines_withClock, map_bind]
  rfl

theorem setFsel_withClock (p : Nat) (code : Word) :
    setFsel (s.withClock now ok) p code = (fun u => u.withClock now ok) <$> setFsel s p code := by
  simp only [setFsel, State.withClock_params, memRead_withClock, memWrite_withClock, map_bind]

theorem digitalWriteTo_withClock (p : Nat) (level : Bool) :
    digitalWriteTo (s.withClock now ok) p level = (fun u => u.withClock now ok) <$> digitalWriteTo s p level := by
  simp only [digitalWriteTo, State.withClock_params, memRead_withClock, memWrite_withClock, map_bind]
  rfl

theorem writeNat_withClock (a : RegAddr) (n : Nat) :
    writeNat (s.withClock now ok) a n = (fun u => u.withClock now ok) <$> writeNat s a n :=
  memWrite_withClock s now ok a _

theorem routeChannel_withClock (c : Nat) :
    routeChannel (s.withClock now ok) c = (fun u => u.withClock now ok) <$> routeChannel s c := by
  simp only [routeChannel, State.withClock_params, requireGpio_withClock, setFsel_withClock]
  split
  · simp only [map_bind]
  · rfl

variable {s now ok}

/-- A body that does the same under another clock makes a command that ends the same. -/
theorem command_withClock {body body' : Act (Data × State)} {t : State} (h : command s body = .next t)
    (hbody : body' = Prod.map id (fun u => u.withClock now ok) <$> body) :
    command (s.withClock now ok) body' = .next (t.withClock now ok) := by
  subst hbody
  obtain ⟨hhalted, rfl⟩ | ⟨hrun, ⟨d, u, rfl, rfl⟩ | ⟨e, rfl, rfl⟩ | ⟨rfl, rfl⟩⟩ := command_next h
  · exact command_halted _ hhalted
  · exact command_running _ hrun
  · exact command_running _ hrun
  · exact command_running _ hrun

/-- A command that does not sample the clock: each part of its body does the same under another clock. -/
theorem exec_withClock {i : Instr} {t : State} (hother : samplesClock i = false) (h : exec i s = .next t) :
    exec i (s.withClock now ok) = .next (t.withClock now ok) := by
  cases i with
  | gpioInit | hpwmInit =>
    refine command_withClock h ?_
    rw [apply_ite (Functor.map _), map_bind]
    rfl
  | gpioCleanup | hpwmCleanup => exact command_withClock h rfl
  | pinMode =>
    refine command_withClock h ?_
    simp only [map_bind, requireGpio_withClock, requirePin_withClock, setFsel_withClock, bind_map_left,
      State.withClock_params]
    rfl
  | digitalWrite =>
    refine command_withClock h ?_
    simp only [map_bind, requireGpio_withClock, requirePin_withClock, digitalWriteTo_withClock, bind_map_left]
    rfl
  | digitalRead =>
    refine command_withClock h ?_
    simp only [map_bind, requireGpio_withClock, requirePin_withClock, memRead_withClock, State.withClock_params]
    rfl
  | hpwmSet =>
    refine command_withClock h ?_
    simp only [map_bind, requirePwm_withClock, writeNat_withClock, bind_map_left, State.withClock_params]
    rfl
  | hpwmEnable =>
    refine command_withClock h ?_
    simp only [map_bind, requirePwm_withClock, routeChannel_withClock, memRead_withClock, memWrite_withClock,
      bind_map_left, State.withClock_params]
    rfl
  | hpwmDisable =>
    refine command_withClock h ?_
    simp only [map_bind, requirePwm_withClock, memRead_withClock, memWrite_withClock, bind_map_left,
      State.withClock_params]
    rfl
  | millis | timerSet | timerExpired | timerTick | spwmCfg | spwmPoll => cases hother

end

/-- Settles O19: the other clock is put into the inputs, which the command keeps. -/
theorem otherCommandsIgnoreTheClock : Obligations.OtherCommandsIgnoreTheClock := by
  intro i s t now ok hother h
  obtain ⟨-, henv, -⟩ := commandsKeepTheirSurroundings i s t h
  have hclocked := exec_withClock (now := now) (ok := ok) hother h
  rwa [State.withClock, State.withClock, henv] at hclocked

end Sys2Proof.Machine
end

section
/-! PROOF. The GPIO unit (O22, O32, O43 to O47, O49): a command's answer when a check fails, the mapping commands, and the
one pin whose function or latch a completed command writes. -/

namespace Sys2Proof.Machine

/-! ### Rejections (60_exceptions.md R161, R164, R166) -/

/-- A raised error is a rejection: the block and its surroundings are as they were. -/
theorem rejectedWith_of_raise {i : Instr} {s : State} {e : ErrorKind} (h : exec i s = .next (s.raise e)) :
    RejectedWith e.code i s :=
  ⟨_, h, s.raise_rsp e, s.raise_block e, s.raise_params e, s.raise_env e, s.raise_script e⟩

/-- A body that begins with the bank check is answered with `NotInitializedError` when the check fails. -/
theorem command_unmappedGpio {s : State} {body : Unit → Act (Data × State)} (hrun : s.block.halted = false)
    (hm : s.block.gpioMapped = false) : command s (requireGpio s >>= body) = .next (s.raise .notInitialized) := by
  rw [command_running _ hrun, requireGpio_error hm, act_bind_error, conclude_raise]

/-- A body that makes the bank check and then the pin check is answered with `InvalidPinError` when only the second
fails. -/
theorem command_badPin {s : State} {pin : BitVec 8} {body : Unit → Act (Data × State)} (hrun : s.block.halted = false)
    (hm : s.block.gpioMapped = true) (hbad : ¬ pin.toNat < s.params.npins) :
    command s (requireGpio s >>= fun _ => requirePin s pin >>= body) = .next (s.raise .invalidPin) := by
  rw [command_running _ hrun, requireGpio_ok hm, act_bind_ok, requirePin_error hbad, act_bind_error, conclude_raise]

/-- Every command that has a pin operand checks it before its configuration operands (60_exceptions.md R165). -/
theorem exec_badPin {i : Instr} {s : State} {pin : BitVec 8} (hrun : s.block.halted = false)
    (hwf : i.WellFormed s.params) (hclock : ClockServes i s) (hm : s.block.gpioMapped = true)
    (hpin : pinOperand i = some pin) (hbad : ¬ pin.toNat < s.params.npins) : exec i s = .next (s.raise .invalidPin) := by
  cases i with
  | pinMode | digitalWrite | digitalRead =>
    obtain rfl := Option.some.inj hpin
    exact command_badPin hrun hm hbad
  | spwmCfg ch p freq duty =>
    obtain rfl := Option.some.inj hpin
    change execSpwmCfg ch p freq duty s = _
    rw [execSpwmCfg, command_running _ hrun, requireIndex_ok hwf, act_bind_ok, sampleClock_ok (hclock rfl), act_bind_ok,
      requireGpio_ok hm, act_bind_ok, requirePin_error hbad, act_bind_error, conclude_raise]
  | gpioInit | gpioCleanup | millis | timerSet | timerExpired | timerTick | spwmPoll | hpwmInit | hpwmCleanup | hpwmSet
  | hpwmEnable | hpwmDisable => cases hpin

/-- Settles O32. -/
theorem badPinIsRejected : Obligations.BadPinIsRejected :=
  fun _ _ _ hrun hwf hclock hm hpin hbad =>
    rejectedWith_of_raise (exec_badPin hrun hwf hclock hm hpin (Nat.not_lt.mpr hbad))

/-! ### Mapping and unmapping (41_gpio.md R100, R101; 43_hw_pwm.md R140, R141) -/

/-- The body that the two inits share: nothing on a mapped bank, else the mapping `u` or `HardwareAccessError`. -/
theorem command_init {s u : State} {mapped granted : Bool} (hrun : s.block.halted = false) :
    command s (if mapped then .ok (0#64, s) else require granted .hardwareAccess >>= fun _ => .ok (0#64, u)) =
      .next (if mapped then s.answer 0#64 else if granted then u.answer 0#64 else s.raise .hardwareAccess) := by
  rw [command_running _ hrun]
  cases mapped with
  | true => rfl
  | false =>
    cases granted with
    | true => rfl
    | false => rfl

theorem exec_gpioInit {s : State} (hrun : s.block.halted = false) :
    exec .gpioInit s = .next (if s.block.gpioMapped then s.answer 0#64
      else if s.env.mapGrantGpio then (s.withGpioMapped true).answer 0#64 else s.raise .hardwareAccess) :=
  command_init hrun

theorem exec_hpwmInit {s : State} (hrun : s.block.halted = false) :
    exec .hpwmInit s = .next (if s.block.pwmMapped then s.answer 0#64
      else if s.env.mapGrantPwm then (s.withPwmMapped true).answer 0#64 else s.raise .hardwareAccess) :=
  command_init hrun

theorem exec_gpioCleanup {s : State} (hrun : s.block.halted = false) :
    exec .gpioCleanup s = .next ((s.withGpioMapped false).answer 0#64) :=
  command_running _ hrun

theorem exec_hpwmCleanup {s : State} (hrun : s.block.halted = false) :
    exec .hpwmCleanup s = .next ((s.withPwmMapped false).answer 0#64) :=
  command_running _ hrun

/-- Settles O43: the three answers of the body the two inits share. -/
theorem initMapsItsBank : Obligations.InitMapsItsBank := by
  intro s hrun
  have hgpio := exec_gpioInit hrun
  have hpwm := exec_hpwmInit hrun
  have hdenied {i : Instr} (h : exec i s = .next (s.raise .hardwareAccess)) : RejectedWith 1#8 i s :=
    rejectedWith_of_raise h
  refine ⟨fun hm => ?_, fun hm hg => ?_, fun hm hg => hdenied ?_, fun hm => ?_, fun hm hg => ?_, fun hm hg => hdenied ?_⟩
  · simpa [hm] using hgpio
  · simpa [hm, hg] using hgpio
  · simpa [hm, hg] using hgpio
  · simpa [hm] using hpwm
  · simpa [hm, hg] using hpwm
  · simpa [hm, hg] using hpwm

/-- Settles O44: a cleanup makes no check, and the second keeps the flag that the first has cleared. -/
theorem cleanupClearsOnlyItsFlag : Obligations.CleanupClearsOnlyItsFlag := by
  intro s hrun
  have hpwm := exec_hpwmCleanup hrun
  have hgpio := exec_gpioCleanup (s := (s.withPwmMapped false).answer 0#64) hrun
  have hfirst : execAll [.hpwmCleanup] s = .next ((s.withPwmMapped false).answer 0#64) := by rw [execAll, hpwm]; rfl
  exact ⟨exec_gpioCleanup hrun, hpwm, fun hlast =>
    ⟨_, (execAll_append_singleton hfirst).trans hgpio, hlast, hrun, rfl, rfl⟩⟩

/-! ### The function and the latch of one pin -/

/-- Pin `p` has the same function and the same latch in the two states. -/
structure SamePin (s t : State) (p : Nat) : Prop where
  fsel : t.block.fsel[p]? = s.block.fsel[p]?
  out : t.block.out[p]? = s.block.out[p]?

theorem SamePin.trans {s t u : State} {p : Nat} (h : SamePin s t p) (h' : SamePin t u p) : SamePin s u p :=
  ⟨h'.fsel.trans h.fsel, h'.out.trans h.out⟩

/-- A pin's observed level depends on the pin, the parameters and the inputs (10_state.md R18). -/
theorem SamePin.pinLevel_eq {s t : State} {p : Nat} (h : SamePin s t p) (hp : t.params = s.params) (he : t.env = s.env)
    (d : Bool) : pinLevel t p d = pinLevel s p d := by
  simp only [pinLevel, h.fsel, h.out, hp, he]

/-- What the block does with a pad depends on the pin and the parameters (10_state.md R19). -/
theorem SamePin.pad_eq {s t : State} {p : Nat} (h : SamePin s t p) (hp : t.params = s.params) : pad t p = pad s p := by
  simp only [pad, h.fsel, h.out, hp]

/-- Settles O45: the two commands write the flag alone, on which no pad depends. -/
theorem reinitKeepsEveryPin : Obligations.ReinitKeepsEveryPin := by
  intro s hrun hgrant
  obtain ⟨-, hgranted, -⟩ := initMapsItsBank ((s.withGpioMapped false).answer 0#64) hrun
  refine ⟨_, _, exec_gpioCleanup hrun, rfl, hgranted rfl hgrant, rfl, fun p => ⟨?_, ?_⟩⟩
  · exact SamePin.pad_eq ⟨rfl, rfl⟩ rfl
  · exact SamePin.pad_eq ⟨rfl, rfl⟩ rfl

/-! ### The two procedures that write a pin (41_gpio.md R105, R107) -/

/-- `SetFsel` goes through on a mapped bank only, and stores the code in the pin's field. -/
theorem setFsel_eq_set {s u : State} {p : Nat} {code : Word} (h : s.Inv) (hp : p < s.params.npins)
    (hcode : code.toNat < 2 ^ s.params.fselBits) (hu : setFsel s p code = .ok u) :
    u = s.withFsel (s.block.fsel.set p code) := by
  obtain ⟨⟨hgpio, -⟩, -, hcodes, -⟩ := h
  obtain ⟨_, hread, -⟩ := bind_ok hu
  obtain ⟨_, haccess, -⟩ := bind_ok hread
  obtain ⟨hm, -⟩ := access_eq_ok haccess
  exact Except.ok.inj (hu.symm.trans (setFsel_ok hgpio hm hp hcodes hcode))

/-- `DigitalWrite` goes through on an output only, and stores the level in the pin's latch. -/
theorem digitalWriteTo_eq_set {s u : State} {p : Nat} {l : Bool} (h : s.Inv) (hm : s.block.gpioMapped = true)
    (hp : p < s.params.npins) (hu : digitalWriteTo s p l = .ok u) :
    s.block.fsel[p]? = some s.params.fselOutput ∧ u = s.withOut (s.block.out.set p l) := by
  have hf := List.getElem?_eq_getElem (h.fsel_length.symm ▸ hp)
  have ⟨⟨hgpio, _⟩, _, hcodes, _⟩ := h
  rw [digitalWriteTo_eq l hgpio hm hp hf (hcodes _ (List.mem_of_getElem? hf))] at hu
  split at hu
  next hout => exact ⟨hf.trans (congrArg some hout), (Except.ok.inj hu).symm⟩
  next => cases hu

theorem setFsel_samePin {s u : State} {p q : Nat} {code : Word} (h : s.Inv) (hp : p < s.params.npins)
    (hcode : code.toNat < 2 ^ s.params.fselBits) (hu : setFsel s p code = .ok u) (hne : p ≠ q) : SamePin s u q := by
  rw [setFsel_eq_set h hp hcode hu]
  exact ⟨List.getElem?_set_ne hne, rfl⟩

theorem digitalWriteTo_samePin {s u : State} {p q : Nat} {l : Bool} (h : s.Inv) (hm : s.block.gpioMapped = true)
    (hp : p < s.params.npins) (hu : digitalWriteTo s p l = .ok u) (hne : p ≠ q) : SamePin s u q := by
  obtain ⟨-, rfl⟩ := digitalWriteTo_eq_set h hm hp hu
  exact ⟨rfl, List.getElem?_set_ne hne⟩

/-- Routing a channel writes the field of the channel's pin, on a platform that needs it (43_hw_pwm.md R145). -/
theorem routeChannel_samePin {s u : State} {c q : Nat} (h : s.Inv) (hu : routeChannel s c = .ok u)
    (hne : (if s.params.pwmNeedsAlt then s.params.pwmPin[c]? else none) ≠ some q) : SamePin s u q := by
  rw [routeChannel] at hu
  split at hu
  next halt =>
    have ⟨⟨_, _, _, hshape⟩, _⟩ := h
    obtain ⟨⟨-, hpins, -⟩, -, hcodes⟩ := hshape halt
    obtain ⟨_, -, hu⟩ := bind_ok hu
    obtain ⟨p, hp, hu⟩ := bind_ok hu
    obtain ⟨a, ha, hu⟩ := bind_ok hu
    have hpin := present_eq_ok hp
    obtain ⟨hcode, -⟩ := hcodes a (List.mem_of_getElem? (present_eq_ok ha))
    refine setFsel_samePin h (hpins p (List.mem_of_getElem? hpin)) hcode hu fun hpq => hne ?_
    rw [if_pos halt, hpin, hpq]
  next =>
    obtain rfl := Except.ok.inj hu
    exact ⟨rfl, rfl⟩

theorem memWrite_ctl_samePin {s u : State} {v : BusWord} {q : Nat} (hu : memWrite s .ctl v = .ok u) : SamePin s u q := by
  rw [memWrite_eq_ok hu, writeLines]
  exact ⟨by rw [State.withPwmCtl_fsel], by rw [State.withPwmCtl_out]⟩

/-! ### Isolation (41_gpio.md R109) -/

/-- A completed command leaves every pin but its own as it was. -/
theorem effect_samePin {i : Instr} {s u : State} {d : Data} {q : Nat} (h : s.Inv) (he : Effect s i d u)
    (hne : touchedPin s i ≠ some q) : SamePin s u q := by
  cases i with
  | pinMode pin mode =>
    obtain ⟨-, -, hp, hu⟩ := he
    have ⟨⟨hgpio, _⟩, _⟩ := h
    exact setFsel_samePin h hp (modeCode_fits mode hgpio) hu fun hpq => hne (congrArg some hpq)
  | digitalWrite pin level =>
    obtain ⟨-, hm, hp, hu⟩ := he
    exact digitalWriteTo_samePin h hm hp hu fun hpq => hne (congrArg some hpq)
  | spwmCfg ch pin freq duty =>
    obtain ⟨-, hm, hp, -, old, v, -, hv, rfl⟩ := he
    have hpin : SamePin s v q := digitalWriteTo_samePin h hm hp hv fun hpq => hne (congrArg some hpq)
    exact ⟨hpin.fsel, hpin.out⟩
  | spwmPoll ch =>
    obtain ⟨hm, c, hc, hcfg, ⟨-, rfl, -⟩ | ⟨-, -, -, v, hv, rfl⟩⟩ := he
    · exact ⟨rfl, rfl⟩
    · have ⟨_, _, _, hsound⟩ := h
      obtain ⟨hp, -⟩ := hsound c (List.mem_of_getElem? hc) hcfg
      have hpin : SamePin s v q :=
        digitalWriteTo_samePin h hm hp hv fun hpq => hne (by rw [touchedPin, hc, Option.map_some, hpq])
      exact ⟨hpin.fsel, hpin.out⟩
  | hpwmEnable ch =>
    obtain ⟨-, -, -, v, b, old, hv, -, -, hu⟩ := he
    exact (routeChannel_samePin h hv hne).trans (memWrite_ctl_samePin hu)
  | hpwmDisable ch =>
    obtain ⟨-, -, -, b, old, -, -, hu⟩ := he
    exact memWrite_ctl_samePin hu
  | hpwmSet ch freq duty =>
    obtain ⟨-, hch, hm, -, -, div, period, s₁, s₂, -, hdiv, hrng, hdat⟩ := he
    rw [storeTriple_of_writes hm hch hdiv hrng hdat]
    exact ⟨rfl, rfl⟩
  | gpioInit | hpwmInit =>
    obtain ⟨-, rfl | rfl⟩ := he
    · exact ⟨rfl, rfl⟩
    · exact ⟨rfl, rfl⟩
  | gpioCleanup | hpwmCleanup | millis =>
    obtain ⟨-, rfl⟩ := he
    exact ⟨rfl, rfl⟩
  | timerSet =>
    obtain ⟨-, -, rfl⟩ := he
    exact ⟨rfl, rfl⟩
  | digitalRead | timerExpired =>
    obtain ⟨rfl, -⟩ := he
    exact ⟨rfl, rfl⟩
  | timerTick =>
    obtain ⟨slot, -, ⟨-, -, rfl⟩ | ⟨-, -, rfl⟩⟩ := he
    · exact ⟨rfl, rfl⟩
    · exact ⟨rfl, rfl⟩

/-- A command leaves every pin but its own as it was, however it ends. -/
theorem exec_samePin {i : Instr} {s t : State} {q : Nat} (h : s.Inv) (ht : exec i s = .next t)
    (hne : touchedPin s i ≠ some q) : SamePin s t q := by
  obtain ⟨-, rfl⟩ | ⟨-, ⟨d, u, he, rfl⟩ | ⟨e, -, rfl⟩ | ⟨-, -, -, rfl⟩⟩ := exec_ends ht
  · exact ⟨rfl, rfl⟩
  · obtain ⟨hfsel, hout⟩ := effect_samePin h he hne
    exact ⟨hfsel, hout⟩
  · exact ⟨rfl, rfl⟩
  · exact ⟨rfl, rfl⟩

/-- Settles O22: the pin is as it was, and so are the parameters and the inputs, on which its level also depends. -/
theorem bitIsolation : Obligations.BitIsolation := by
  intro i s t q h ht hne
  have hpin := exec_samePin h ht hne
  obtain ⟨hparams, henv, -⟩ := commandsKeepTheirSurroundings i s t ht
  exact ⟨hpin.fsel, hpin.out, hpin.pinLevel_eq hparams henv⟩

/-! ### PIN_MODE, DIGITAL_WRITE, DIGITAL_READ (41_gpio.md R106 to R111) -/

/-- Settles O46: the two rejections, and the command's own equation. -/
theorem pinModeWritesOneField : Obligations.PinModeWritesOneField := by
  intro s pin mode h hrun
  refine ⟨fun hm => ?_, fun hm hbad => ?_, fun hm hp => ?_⟩
  · exact rejectedWith_of_raise (e := .notInitialized) (command_unmappedGpio hrun hm)
  · exact badPinIsRejected _ s pin hrun trivial (fun hsamples => nomatch hsamples) hm rfl hbad
  · have hexec := exec_pinMode mode h hrun hm hp
    cases mode with
    | input => exact hexec
    | output => exact hexec

theorem Level.toBit_eq_decide (level : Level) : level.toBit = decide (level = .high) := by
  cases level <;> rfl

/-- Settles O47. -/
theorem digitalWriteSetsOneLatch : Obligations.DigitalWriteSetsOneLatch := by
  intro s pin level h hrun hm hf
  rw [← Level.toBit_eq_decide]
  exact exec_digitalWrite level h hrun hm hf

/-- A `DIGITAL_WRITE` that was answered OK found an output and left the level in its latch (41_gpio.md R107). -/
theorem digitalWrite_answered {s t : State} {pin : BitVec 8} {level : Level} {d : Data} (h : s.Inv)
    (hrun : s.block.halted = false) (ht : exec (.digitalWrite pin level) s = .next t) (hr : t.rsp = some ⟨0#8, d⟩) :
    t.params = s.params ∧ t.block.fsel[pin.toNat]? = some s.params.fselOutput ∧
      t.block.out[pin.toNat]? = some level.toBit := by
  obtain ⟨u, ⟨-, hm, hp, hu⟩, rfl⟩ := exec_answered hrun ht hr
  obtain ⟨hf, rfl⟩ := digitalWriteTo_eq_set h hm hp hu
  exact ⟨rfl, hf, List.getElem?_set_self (h.out_length.symm ▸ hp)⟩

/-- `DIGITAL_READ` of an output answers its latch (41_gpio.md R110). -/
theorem exec_digitalRead_output {s : State} {pin : BitVec 8} {o : Bool} (h : s.Inv) (hrun : s.block.halted = false)
    (hm : s.block.gpioMapped = true) (hf : s.block.fsel[pin.toNat]? = some s.params.fselOutput)
    (ho : s.block.out[pin.toNat]? = some o) : exec (.digitalRead pin) s = .next (s.answer (bitData o)) := by
  rw [exec_digitalRead h hrun hm (h.lt_npins_of_fsel hf), pinLevel_eq _ hf ho, if_pos rfl]

/-- Settles O49: the write leaves an output with the level in its latch, and the read answers the latch. -/
theorem readReturnsLastWrite : Obligations.ReadReturnsLastWrite := by
  intro s t u pin level d h hrun ht hr hu hparams hurun hum hfsel hout
  obtain ⟨htparams, htf, hto⟩ := digitalWrite_answered h hrun ht hr
  rw [← htparams, ← hparams] at htf
  rw [exec_digitalRead_output hu hurun hum (hfsel.trans htf) (hout.trans hto)]
  cases level with
  | low => rfl
  | high => rfl

end Sys2Proof.Machine
end

section
/-! PROOF. The software PWM unit (O51 to O55): the arithmetic of a schedule, the answers of `SPWM_CFG` and `SPWM_POLL` when
their checks pass, and what a later poll finds in the record that one of them left. -/

namespace Sys2Proof.Machine

/-! ### The schedule (42_soft_pwm.md R122) -/

theorem roundHalfUp_65536 (n : Nat) : roundHalfUp n 65536 = (n + 32768) / 65536 := by
  unfold roundHalfUp
  omega

theorem schedule_onMs (freq : BitVec 32) (duty : BitVec 17) :
    (schedule freq duty).onMs = (duty.toNat * (1000 / freq.toNat) + 32768) / 65536 :=
  roundHalfUp_65536 _

/-- The two phases divide the period. -/
theorem schedule_sum (freq : BitVec 32) {duty : BitVec 17} (h : duty.toNat ≤ 65536) :
    (schedule freq duty).onMs + (schedule freq duty).offMs = 1000 / freq.toNat :=
  Nat.add_sub_of_le (roundHalfUp_duty_le h)

/-- Settles O51: the phases divide a period of 1 to 1000 ms, and the rounding is exact at the two ends of the duty range. -/
theorem scheduleFillsThePeriod : Obligations.ScheduleFillsThePeriod := by
  intro freq duty hduty hpos hmax
  have hon := schedule_onMs freq duty
  have hsum := schedule_sum freq hduty
  have hmin : 1 ≤ 1000 / freq.toNat := Nat.div_pos hmax (Nat.pos_of_ne_zero hpos)
  have hle : 1000 / freq.toNat ≤ 1000 := Nat.div_le_self 1000 freq.toNat
  have hwidth : duty.toNat * (1000 / freq.toNat) ≤ 65536 * 1000 := Nat.mul_le_mul hduty hle
  refine ⟨rfl, hon, hsum, hmin, hle, fun hzero => ?_, fun hfull => ?_, ?_, ?_, by omega⟩
  · rw [hon, hzero, Nat.zero_mul]
  · rw [hfull] at hon
    omega
  · exact (Nat.le_add_right _ _).trans_eq hsum
  · exact (Nat.le_add_left _ _).trans_eq hsum

/-! ### The channel file -/

/-- An index with a channel record is a channel of the platform. -/
theorem State.Inv.lt_nspwm_of_channel {s : State} {k : Nat} {c : Channel} (h : s.Inv) (hc : s.block.spwm[k]? = some c) :
    k < s.params.nspwm := by
  obtain ⟨-, ⟨-, -, -, -, -, -, hspwm⟩, -⟩ := h
  obtain ⟨hk, -⟩ := List.getElem?_eq_some_iff.mp hc
  rwa [hspwm] at hk

theorem State.Inv.channel_sound {s : State} {k : Nat} {c : Channel} (h : s.Inv) (hc : s.block.spwm[k]? = some c) :
    c.Sound s.params := by
  obtain ⟨-, -, -, hsound⟩ := h
  exact hsound c (List.mem_of_getElem? hc)

theorem channelAt_ok {s : State} {ch : BitVec 8} {c : Channel} (hc : s.block.spwm[ch.toNat]? = some c) :
    channelAt s ch = .ok c := by
  rw [channelAt, hc, present_some]

theorem setChannel_record {s : State} {ch : BitVec 8} {old : Channel} (c : Channel)
    (hold : s.block.spwm[ch.toNat]? = some old) : (setChannel s ch c).block.spwm[ch.toNat]? = some c :=
  List.getElem?_set_self (List.getElem?_eq_some_iff.mp hold).1

/-- `DigitalWrite` to an output stores the level (41_gpio.md R107). -/
theorem digitalWriteTo_output {s : State} {p : Nat} (level : Bool) (h : s.Inv) (hm : s.block.gpioMapped = true)
    (hf : s.block.fsel[p]? = some s.params.fselOutput) :
    digitalWriteTo s p level = .ok (s.withOut (s.block.out.set p level)) := by
  have hp := h.lt_npins_of_fsel hf
  obtain ⟨⟨hgpio, -⟩, -, hcodes, -⟩ := h
  rw [digitalWriteTo_eq level hgpio hm hp hf (hcodes _ (List.mem_of_getElem? hf)), if_pos rfl]

/-! ### SPWM_CFG (42_soft_pwm.md R123) -/

/-- `SPWM_CFG` on an output with a valid configuration writes the first level and the whole record. -/
theorem exec_spwmCfg {s : State} {ch pin : BitVec 8} {freq : BitVec 32} {duty : BitVec 17} {old : Channel} (h : s.Inv)
    (hrun : s.block.halted = false) (hclock : s.env.clockOk = true) (hm : s.block.gpioMapped = true)
    (hold : s.block.spwm[ch.toNat]? = some old) (hok : softConfigOk freq duty = true)
    (hf : s.block.fsel[pin.toNat]? = some s.params.fselOutput) :
    exec (.spwmCfg ch pin freq duty) s =
      .next ((setChannel (s.withOut (s.block.out.set pin.toNat (decide ((schedule freq duty).onMs ≠ 0)))) ch
        (startedChannel old pin (schedule freq duty) s.env.nowMs)).answer 0#64) := by
  change execSpwmCfg ch pin freq duty s = _
  rw [execSpwmCfg, command_running _ hrun, requireIndex_ok (h.lt_nspwm_of_channel hold), act_bind_ok,
    sampleClock_ok hclock, act_bind_ok, requireGpio_ok hm, act_bind_ok, requirePin_ok (h.lt_npins_of_fsel hf),
    act_bind_ok, require_ok hok, act_bind_ok, channelAt_ok hold, act_bind_ok, digitalWriteTo_output _ h hm hf]
  rfl

/-- The timer of the channel that `SPWM_CFG` starts is armed unless the channel is steady (42_soft_pwm.md R124). -/
theorem startedChannel_tmr (old : Channel) (pin : BitVec 8) (sch : Schedule) (now : Time) :
    (startedChannel old pin sch now).tmr = if sch.onMs = 0 ∨ sch.offMs = 0 then old.tmr
      else ⟨BitVec.ofNat 64 sch.onMs, now + BitVec.ofNat 64 sch.onMs⟩ := by
  by_cases hsteady : sch.onMs = 0 ∨ sch.offMs = 0
  · exact (if_neg (not_and_or.mpr (hsteady.imp not_not_intro not_not_intro))).trans (if_pos hsteady).symm
  · exact (if_pos (not_or.mp hsteady)).trans (if_neg hsteady).symm

/-- Settles O52. -/
theorem spwmCfgStartsTheChannel : Obligations.SpwmCfgStartsTheChannel := by
  intro s ch pin freq duty old h hrun hclock hm hold hduty hpos hmax hf
  rw [exec_spwmCfg h hrun hclock hm hold (decide_eq_true ⟨hduty, hpos, hmax⟩) hf]
  simp only [← startedChannel_tmr old pin]
  rfl

/-! ### SPWM_POLL (42_soft_pwm.md R125) -/

theorem pollData_unchanged (phase : Bool) : pollData phase false = if phase then 1#64 else 0#64 := by
  cases phase <;> rfl

theorem pollData_changed (phase : Bool) : pollData phase true = if phase then 3#64 else 2#64 := by
  cases phase <;> rfl

section
variable {s : State} {ch : BitVec 8} {c : Channel}

/-- A poll of a configured channel comes to the channel's own two tests. -/
theorem exec_spwmPoll (h : s.Inv) (hrun : s.block.halted = false) (hclock : s.env.clockOk = true)
    (hm : s.block.gpioMapped = true) (hc : s.block.spwm[ch.toNat]? = some c) (hcfg : c.cfg = true) :
    exec (.spwmPoll ch) s = conclude s (
      if c.steady then .ok (pollData c.phase false, s)
      else if reached s.env.nowMs c.tmr.nextExpiry then
        digitalWriteTo s c.pin.toNat (!c.phase) >>= fun t =>
          .ok (pollData (!c.phase) true, setChannel t ch (c.toggled s.env.nowMs))
      else .ok (pollData c.phase false, s)) := by
  change execSpwmPoll ch s = _
  rw [execSpwmPoll, command_running _ hrun, requireIndex_ok (h.lt_nspwm_of_channel hc), act_bind_ok,
    sampleClock_ok hclock, act_bind_ok, requireGpio_ok hm, act_bind_ok, channelAt_ok hc, act_bind_ok, require_ok hcfg]
  rfl

/-- A steady channel and a channel whose deadline is ahead answer their phase. -/
theorem exec_spwmPoll_waiting (h : s.Inv) (hrun : s.block.halted = false) (hclock : s.env.clockOk = true)
    (hm : s.block.gpioMapped = true) (hc : s.block.spwm[ch.toNat]? = some c) (hcfg : c.cfg = true)
    (hwaiting : c.steady = true ∨ reached s.env.nowMs c.tmr.nextExpiry = false) :
    exec (.spwmPoll ch) s = .next (s.answer (if c.phase then 1#64 else 0#64)) := by
  rw [exec_spwmPoll h hrun hclock hm hc hcfg, ← pollData_unchanged]
  rcases hwaiting with hsteady | hreached
  · rw [if_pos hsteady, conclude_ok]
  · rw [hreached, if_neg Bool.false_ne_true, ite_self, conclude_ok]

/-- A due channel whose pin is an output makes its transition. -/
theorem exec_spwmPoll_due (h : s.Inv) (hrun : s.block.halted = false) (hclock : s.env.clockOk = true)
    (hm : s.block.gpioMapped = true) (hc : s.block.spwm[ch.toNat]? = some c) (hcfg : c.cfg = true)
    (hsteady : c.steady = false) (hreached : reached s.env.nowMs c.tmr.nextExpiry = true)
    (hf : s.block.fsel[c.pin.toNat]? = some s.params.fselOutput) :
    exec (.spwmPoll ch) s =
      .next ((setChannel (s.withOut (s.block.out.set c.pin.toNat (!c.phase))) ch (c.toggled s.env.nowMs)).answer
        (if c.phase then 2#64 else 3#64)) := by
  rw [exec_spwmPoll h hrun hclock hm hc hcfg, hsteady, if_neg Bool.false_ne_true, if_pos hreached,
    digitalWriteTo_output _ h hm hf, act_bind_ok, conclude_ok, pollData_changed]
  cases c.phase <;> rfl

end

/-- The record after a transition, with its timer written out for each phase. -/
theorem Channel.toggled_eq (c : Channel) (now : Time) :
    c.toggled now = { c with
      phase := !c.phase
      tmr := if c.phase then ⟨c.offMs, now + c.offMs⟩ else ⟨c.onMs, now + c.onMs⟩ } := by
  unfold Channel.toggled
  cases c.phase <;> rfl

theorem Channel.steady_eq_true {c : Channel} : c.steady = true ↔ c.onMs = 0#64 ∨ c.offMs = 0#64 :=
  decide_eq_true_iff

/-- Settles O53: the two cases of a poll whose checks pass. -/
theorem spwmPollMakesOneTransition : Obligations.SpwmPollMakesOneTransition := by
  intro s ch c h hrun hclock hm hc hcfg
  refine ⟨fun hwaiting => ?_, fun hon hoff hreached hf => ?_⟩
  · rw [← or_assoc, ← Channel.steady_eq_true] at hwaiting
    exact exec_spwmPoll_waiting h hrun hclock hm hc hcfg hwaiting
  · rw [← Channel.toggled_eq]
    exact exec_spwmPoll_due h hrun hclock hm hc hcfg (Channel.steady_eq_false.mpr ⟨hon, hoff⟩) hreached hf

/-! ### How long a phase lasts (42_soft_pwm.md R126) -/

/-- The duration of the phase that the channel is in. -/
def Channel.phaseMs (c : Channel) : Time := if c.phase then c.onMs else c.offMs

/-- A transition arms the timer for the duration of the phase it enters. -/
theorem Channel.toggled_nextExpiry (c : Channel) (now : Time) :
    (c.toggled now).tmr.nextExpiry = add64 now (c.toggled now).phaseMs := by
  unfold Channel.toggled Channel.phaseMs armed
  cases c.phase <;> rfl

/-- Both phases of a toggling channel take time. -/
theorem Channel.phaseMs_pos {c : Channel} (hsteady : c.steady = false) : 1 ≤ c.phaseMs.toNat := by
  obtain ⟨hon, hoff⟩ := Channel.steady_eq_false.mp hsteady
  have hpos {x : Time} (hx : x ≠ 0#64) : 1 ≤ x.toNat := Nat.pos_of_ne_zero (BitVec.toNat_ne.mp hx)
  rw [Channel.phaseMs]
  split
  · exact hpos hon
  · exact hpos hoff

/-- A phase is no longer than the longest period. -/
theorem Channel.phaseMs_le {P : Params} {c : Channel} (h : c.Sound P) (hcfg : c.cfg = true) : c.phaseMs.toNat ≤ 1000 := by
  obtain ⟨-, ⟨-, hmax⟩, -⟩ := h hcfg
  rw [Channel.phaseMs]
  split <;> omega

/-- A command that samples the clock is answered only where there is a clock (40_clock_timer.md R81). -/
theorem clockOk_of_answered {i : Instr} {s t : State} {r : Response} (hrun : s.block.halted = false)
    (hwf : i.WellFormed s.params) (hsamples : samplesClock i = true) (h : exec i s = .next t) (hr : t.rsp = some r) :
    s.env.clockOk = true := by
  by_contra hclock
  rw [exec_noClock hrun hwf hsamples (Bool.eq_false_of_not_eq_true hclock)] at h
  obtain rfl := Host.Outcome.next.inj h
  cases hr

/-- A poll that answers with `data[1] = 1` found a toggling channel on an output and left it in its other phase. -/
theorem spwmPoll_transition {s t : State} {ch : BitVec 8} {d : Data} (h : s.Inv) (hrun : s.block.halted = false)
    (ht : exec (.spwmPoll ch) s = .next t) (hr : t.rsp = some ⟨0#8, d⟩) (hd : d.getLsbD 1 = true) :
    t.block.halted = false ∧ t.env.clockOk = true ∧ t.block.gpioMapped = true ∧
      ∃ c : Channel, c.cfg = true ∧ c.steady = false ∧ t.block.spwm[ch.toNat]? = some (c.toggled s.env.nowMs) ∧
        t.block.fsel[c.pin.toNat]? = some t.params.fselOutput := by
  obtain ⟨u, ⟨hm, c, hc, hcfg, ⟨rfl, -, -⟩ | ⟨hsteady, -, -, v, hv, rfl⟩⟩, rfl⟩ := exec_answered hrun ht hr
  · rw [pollData_unchanged] at hd
    cases hphase : c.phase <;> simp [hphase] at hd
  · have hclock := clockOk_of_answered hrun (h.lt_nspwm_of_channel hc) rfl ht hr
    obtain ⟨hp, -⟩ := h.channel_sound hc hcfg
    obtain ⟨hf, rfl⟩ := digitalWriteTo_eq_set h hm hp hv
    exact ⟨hrun, hclock, hm, c, hcfg, hsteady, setChannel_record _ hc, hf⟩

/-- Settles O54: the deadline is the transition's instant and the phase's duration, and only the time gone by decides
whether it is reached. -/
theorem phaseLastsItsDuration : Obligations.PhaseLastsItsDuration := by
  intro s t ch d now h hrun ht hr hd helapsed
  have hinv := exec_inv h ht
  have hinv' : (t.atTime now).Inv := hinv.congr rfl rfl
  obtain ⟨hrun', hclock, hm, c, hcfg, hsteady, hrecord, hf⟩ := spwmPoll_transition h hrun ht hr hd
  have hlong := Channel.phaseMs_le (hinv.channel_sound hrecord) hcfg
  have hreached : reached now (c.toggled s.env.nowMs).tmr.nextExpiry =
      decide ((c.toggled s.env.nowMs).phaseMs.toNat ≤ (now - s.env.nowMs).toNat) := by
    rw [Channel.toggled_nextExpiry, reached_add64_eq (by omega) helapsed]
  refine ⟨c.toggled s.env.nowMs, hrecord, Channel.phaseMs_pos hsteady, fun hearly => ?_, fun hlate => ?_⟩
  · have hwaiting := hreached.trans (decide_eq_false (Nat.not_le.mpr hearly))
    exact exec_spwmPoll_waiting hinv' hrun' hclock hm hrecord hcfg (.inr hwaiting)
  · have hdue := hreached.trans (decide_eq_true hlate)
    exact ⟨_, exec_spwmPoll_due hinv' hrun' hclock hm hrecord hcfg hsteady hdue hf, rfl⟩

/-! ### Steady channels (42_soft_pwm.md R124) -/

/-- What a later poll needs of the state that a completed `SPWM_CFG` leaves. -/
theorem spwmCfg_started {s t : State} {ch pin : BitVec 8} {freq : BitVec 32} {duty : BitVec 17} {d : Data} (h : s.Inv)
    (hrun : s.block.halted = false) (ht : exec (.spwmCfg ch pin freq duty) s = .next t) (hr : t.rsp = some ⟨0#8, d⟩) :
    t.block.halted = false ∧ t.env.clockOk = true ∧ t.block.gpioMapped = true ∧
      ∃ old, t.block.spwm[ch.toNat]? = some (startedChannel old pin (schedule freq duty) s.env.nowMs) := by
  obtain ⟨u, ⟨-, hm, hp, -, old, v, hold, hv, rfl⟩, rfl⟩ := exec_answered hrun ht hr
  have hclock := clockOk_of_answered hrun (h.lt_nspwm_of_channel hold) rfl ht hr
  obtain ⟨-, rfl⟩ := digitalWriteTo_eq_set h hm hp hv
  exact ⟨hrun, hclock, hm, old, setChannel_record _ hold⟩

/-- Settles O55: the record that `SPWM_CFG` leaves is steady, and the invariant gives a steady channel its phase. -/
theorem steadyChannelNeverToggles : Obligations.SteadyChannelNeverToggles := by
  intro s t ch pin freq duty d now h hrun ht hr
  have hinv := exec_inv h ht
  obtain ⟨hrun', hclock, hm, old, hrecord⟩ := spwmCfg_started h hrun ht hr
  obtain ⟨-, -, hlow, hhigh, -⟩ := hinv.channel_sound hrecord rfl
  have hpoll := fun hsteady => exec_spwmPoll_waiting (s := t.atTime now) (hinv.congr rfl rfl) hrun' hclock hm hrecord rfl
    (.inl (Channel.steady_eq_true.mpr hsteady))
  refine ⟨fun hzero => ?_, fun hzero => ?_⟩
  · have hon := congrArg (BitVec.ofNat 64) hzero
    have hpoll := hpoll (.inl hon)
    rwa [hlow hon] at hpoll
  · have hoff := congrArg (BitVec.ofNat 64) hzero
    have hpoll := hpoll (.inr hoff)
    rwa [hhigh hoff] at hpoll

end Sys2Proof.Machine
end

section
/-! PROOF. The hardware PWM unit (O56, O58, O60): what `select` finds, the two commands that write an enable bit, and the
waveform that `HPWM_SET` and `HPWM_ENABLE` start. -/

namespace Sys2Proof.Machine

/-! ### The divider search (43_hw_pwm.md R144) -/

theorem absDiff_eq_natAbs (a b : Nat) : absDiff a b = ((a : Int) - b).natAbs := by
  unfold absDiff
  omega

/-- The tolerance test as a distance on the integers. -/
theorem withinTolerance_iff {P : Params} {f d n : Nat} :
    withinTolerance P f d n = true ↔
      ((P.pwmBaseHz : Int) - d * f * n).natAbs * 1000000 ≤ P.pwmTolPpm * (d * f * n) := by
  rw [withinTolerance, decide_eq_true_eq, absDiff_eq_natAbs, Nat.cast_mul, Nat.cast_mul]

/-- Divider `d` gives a period count that is in range and within the tolerance. -/
def dividerFits (P : Params) (f d : Nat) : Bool :=
  decide (1 ≤ periodCount P f d ∧ periodCount P f d ≤ P.pwmPeriodMax ∧ withinTolerance P f d (periodCount P f d) = true)

theorem tryDivider_eq_guard (P : Params) (f : Nat) :
    tryDivider P f = Option.map (fun d => (d, periodCount P f d)) ∘ Option.guard (dividerFits P f) := by
  funext d
  rw [Function.comp_apply, Option.map_guard, dividerFits, tryDivider]
  simp only [decide_eq_true_eq]

/-- The loop of R144 looks for the first divider of the range that fits. -/
theorem select_eq_find? (P : Params) (f : Nat) :
    select P f = ((List.range' P.pwmDivMin (P.pwmDivMax + 1 - P.pwmDivMin)).find? (dividerFits P f)).map
      fun d => (d, periodCount P f d) := by
  rw [select, tryDivider_eq_guard, ← List.map_findSome?, List.findSome?_guard]

/-- Divider `d` is one that `select` may answer. -/
def DividerWorks (P : Params) (f d : Nat) : Prop :=
  P.pwmDivMin ≤ d ∧ d ≤ P.pwmDivMax ∧ dividerFits P f d = true

/-- A divider works by the three conditions of R144, in integers. -/
theorem dividerWorks_iff {P : Params} {f d : Nat} :
    DividerWorks P f d ↔ P.pwmDivMin ≤ d ∧ d ≤ P.pwmDivMax ∧ 1 ≤ periodCount P f d ∧ periodCount P f d ≤ P.pwmPeriodMax ∧
      ((P.pwmBaseHz : Int) - d * f * periodCount P f d).natAbs * 1000000 ≤ P.pwmTolPpm * (d * f * periodCount P f d) := by
  rw [DividerWorks, dividerFits, decide_eq_true_eq, withinTolerance_iff]

/-- `select` answers the smallest divider that works, with its period count. -/
theorem select_eq_some_iff {P : Params} {f d n : Nat} :
    select P f = some (d, n) ↔
      DividerWorks P f d ∧ n = periodCount P f d ∧ ∀ d', d' < d → ¬ DividerWorks P f d' := by
  rw [select_eq_find?, Option.map_eq_some_iff]
  constructor
  · rintro ⟨d₀, hfind, heq⟩
    obtain ⟨rfl, rfl⟩ := Prod.mk.inj heq
    obtain ⟨hfits, hmem, hleast⟩ := List.find?_range'_eq_some.mp hfind
    obtain ⟨hmin, hmax⟩ := List.mem_range'_1.mp hmem
    refine ⟨⟨hmin, by omega, hfits⟩, rfl, fun d' hlt ⟨hmin', _, hfits'⟩ => ?_⟩
    have hnot := hleast d' hmin' hlt
    rw [hfits'] at hnot
    cases hnot
  · rintro ⟨⟨hmin, hmax, hfits⟩, rfl, hleast⟩
    refine ⟨d, List.find?_range'_eq_some.mpr ⟨hfits, List.mem_range'_1.mpr (by omega), fun d' hmin' hlt => ?_⟩, rfl⟩
    rw [Bool.not_eq_true', ← Bool.not_eq_true]
    exact fun hfits' => hleast d' hlt ⟨hmin', by omega, hfits'⟩

/-- `select` answers nothing exactly when no divider works. -/
theorem select_eq_none_iff {P : Params} {f : Nat} : select P f = none ↔ ∀ d, ¬ DividerWorks P f d := by
  rw [select_eq_find?, Option.map_eq_none_iff, List.find?_eq_none]
  constructor
  · exact fun hnone d ⟨hmin, hmax, hfits⟩ => hnone d (List.mem_range'_1.mpr (by omega)) hfits
  · intro hnone d hmem hfits
    obtain ⟨hmin, hmax⟩ := List.mem_range'_1.mp hmem
    exact hnone d ⟨hmin, by omega, hfits⟩

/-- Settles O56: the loop finds the first divider that fits, and the tolerance test is a distance on the integers. -/
theorem selectFindsSmallestDivider : Obligations.SelectFindsSmallestDivider := by
  intro P f _ _ works
  have hworks (d : Nat) : DividerWorks P f d ↔ works d := dividerWorks_iff
  simp only [← hworks]
  exact ⟨fun _ _ => select_eq_some_iff, select_eq_none_iff⟩

/-! ### HPWM_ENABLE and HPWM_DISABLE (43_hw_pwm.md R145, R146) -/

/-- A channel with an enable bit is a channel of the platform. -/
theorem State.Inv.lt_nhpwm_of_enBit {s : State} {c b : Nat} (h : s.Inv) (hb : s.params.pwmEnBit[c]? = some b) :
    c < s.params.nhpwm := by
  obtain ⟨⟨-, -, ⟨-, -, -, hlen, -⟩, -⟩, -⟩ := h
  obtain ⟨hc, -⟩ := List.getElem?_eq_some_iff.mp hb
  rwa [hlen] at hc

section
variable {s : State} {ch : BitVec 8} {b : Nat}

/-- `HPWM_ENABLE` on a platform that routes no channel sets the channel's bit (43_hw_pwm.md R145). -/
theorem exec_hpwmEnable_plain (hrun : s.block.halted = false) (hm : s.block.pwmMapped = true)
    (hplain : s.params.pwmNeedsAlt = false) (hch : ch.toNat < s.params.nhpwm)
    (hb : s.params.pwmEnBit[ch.toNat]? = some b) :
    exec (.hpwmEnable ch) s = .next ((s.withPwmCtl (s.block.pwmCtl ||| BitVec.twoPow 32 b)).answer 0#64) := by
  change execHpwmEnable ch s = _
  rw [execHpwmEnable, command_running _ hrun, requireIndex_ok hch, act_bind_ok, requirePwm_ok hm, act_bind_ok,
    routeChannel_plain hplain, act_bind_ok, hb, present_some, act_bind_ok, memRead_ctl hm, act_bind_ok, memWrite_ctl hm,
    act_bind_ok, BusWord.word_or_bit]
  rfl

/-- `HPWM_DISABLE` clears the channel's bit (43_hw_pwm.md R146). -/
theorem exec_hpwmDisable (hrun : s.block.halted = false) (hm : s.block.pwmMapped = true)
    (hch : ch.toNat < s.params.nhpwm) (hb : s.params.pwmEnBit[ch.toNat]? = some b) :
    exec (.hpwmDisable ch) s = .next ((s.withPwmCtl (s.block.pwmCtl &&& ~~~ BitVec.twoPow 32 b)).answer 0#64) := by
  change execHpwmDisable ch s = _
  rw [execHpwmDisable, command_running _ hrun, requireIndex_ok hch, act_bind_ok, requirePwm_ok hm, act_bind_ok, hb,
    present_some, act_bind_ok, memRead_ctl hm, act_bind_ok, memWrite_ctl hm, act_bind_ok, BusWord.word_andNot_bit]
  rfl

end

/-- Settles O58: the two sorts of platform for `HPWM_ENABLE`, and `HPWM_DISABLE`. -/
theorem enableAndDisableWriteOneBit : Obligations.EnableAndDisableWriteOneBit := by
  intro s ch b h hrun hm hb
  have hch := h.lt_nhpwm_of_enBit hb
  exact ⟨fun hplain => exec_hpwmEnable_plain hrun hm hplain hch hb,
    fun p a halt hg hp ha => exec_hpwmEnable_routed h hrun hg hm halt hch hb hp ha, exec_hpwmDisable hrun hm hch hb⟩

/-! ### The waveform of a channel that was set and enabled (43_hw_pwm.md R143 to R147) -/

/-- The record of the channel that `HPWM_SET` writes (10_state.md R21). -/
theorem storeTriple_hwChannel {s : State} {c : Nat} (div period duty : Nat) (h : s.Inv) (hc : c < s.params.nhpwm) :
    hwChannel (storeTriple s c div period duty) c =
      some ⟨BitVec.ofNat 32 div, BitVec.ofNat 32 period, BitVec.ofNat 32 duty, enabled s c⟩ := by
  have hindex := divIndex_lt h hc
  obtain ⟨-, ⟨-, -, -, -, hrng, hdat, -⟩, -⟩ := h
  exact hwChannel_eq_some.mpr ⟨List.getElem?_set_self hindex, List.getElem?_set_self (by omega),
    List.getElem?_set_self (by omega), rfl⟩

/-- A completed `HPWM_ENABLE` leaves the channel's registers as they were and the channel enabled (43_hw_pwm.md R145). -/
theorem effect_hpwmEnable_hwChannel {s u : State} {ch : BitVec 8} {d : Data} {hw : HwChannel} (h : s.Inv)
    (he : Effect s (.hpwmEnable ch) d u) (hhw : hwChannel s ch.toNat = some hw) :
    hwChannel u ch.toNat = some { hw with en := true } := by
  obtain ⟨⟨-, -, hshape, -⟩, -⟩ := h
  obtain ⟨hparams, b, hb, hctl⟩ := effect_hpwmEnable_ctl he
  obtain ⟨hen, -⟩ := enabled_of_bit_written hshape hparams hb fun i hi => by rw [hctl, getLsbD_set_bit hi]
  have hbank : u.block.pwmDiv = s.block.pwmDiv ∧ u.block.pwmRng = s.block.pwmRng ∧ u.block.pwmDat = s.block.pwmDat := by
    obtain ⟨-, -, -, v, b, old, hv, -, -, hu⟩ := he
    obtain ⟨codes, rfl⟩ := routeChannel_eq_ok hv
    rw [memWrite_eq_ok hu]
    exact ⟨rfl, rfl, rfl⟩
  obtain ⟨hbdiv, hbrng, hbdat⟩ := hbank
  obtain ⟨hdiv, hrng, hdat, -⟩ := hwChannel_eq_some.mp hhw
  rw [hwChannel_eq_some, hparams, hbdiv, hbrng, hbdat]
  exact ⟨hdiv, hrng, hdat, hen⟩

/-- The waveform of an enabled channel whose registers hold a divider, a period count and a duty count that are in range
(43_hw_pwm.md R147). -/
theorem waveform_of_hwChannel {s : State} {c div period duty : Nat}
    (hhw : hwChannel s c = some ⟨BitVec.ofNat 32 div, BitVec.ofNat 32 period, BitVec.ofNat 32 duty, true⟩)
    (hdiv : 1 ≤ div ∧ div < 2 ^ 32) (hperiod : 1 ≤ period ∧ period < 2 ^ 32) (hduty : duty ≤ period) :
    waveform s c = some ⟨div * period, duty, period⟩ := by
  obtain ⟨hdivPos, hdivFits⟩ := hdiv
  obtain ⟨hperiodPos, hperiodFits⟩ := hperiod
  have hne {n : Nat} (hpos : 1 ≤ n) (hfits : n < 2 ^ 32) : BitVec.ofNat 32 n ≠ 0#32 :=
    BitVec.toNat_ne.mpr (by rw [toNat_ofNat32 hfits]; exact Nat.ne_of_gt hpos)
  rw [waveform, hhw]
  simp only [toNat_ofNat32 hdivFits, toNat_ofNat32 hperiodFits, toNat_ofNat32 (hduty.trans_lt hperiodFits)]
  exact if_pos ⟨trivial, hne hdivPos hdivFits, hne hperiodPos hperiodFits, hduty⟩

/-- Settles O60: the registers hold the selection of `HPWM_SET`, whose divider works, and `HPWM_ENABLE` keeps them. -/
theorem enabledWaveformMeetsRequest : Obligations.EnabledWaveformMeetsRequest := by
  intro s t u ch freq duty d e h hrun ht hrt hu hru
  have htinv := exec_inv h ht
  obtain ⟨s', ⟨-, hch, hm, hduty, -, div, period, s₁, s₂, hsel, hwdiv, hwrng, hwdat⟩, rfl⟩ := exec_answered hrun ht hrt
  obtain rfl := storeTriple_of_writes hm hch hwdiv hwrng hwdat
  obtain ⟨u', he, rfl⟩ := exec_answered (by exact hrun) hu hru
  have hhw : hwChannel (u'.answer e) ch.toNat =
      some ⟨BitVec.ofNat 32 div, BitVec.ofNat 32 period, BitVec.ofNat 32 (dutyCount duty period), true⟩ :=
    effect_hpwmEnable_hwChannel htinv he (storeTriple_hwChannel div period (dutyCount duty period) h hch)
  obtain ⟨⟨-, -, ⟨-, ⟨hdivMin, -, hdivMax⟩, ⟨-, hperiodMax⟩, -⟩, -⟩, -⟩ := h
  obtain ⟨hworks, rfl, -⟩ := select_eq_some_iff.mp hsel
  obtain ⟨hmin, hmax, hpos, hle, htol⟩ := dividerWorks_iff.mp hworks
  have hcount : dutyCount duty (periodCount s.params freq.toNat div) ≤ periodCount s.params freq.toNat div :=
    roundHalfUp_duty_le hduty
  refine ⟨_, waveform_of_hwChannel hhw ⟨by omega, by omega⟩ ⟨hpos, by omega⟩ hcount, ?_, roundHalfUp_65536 _, hpos, hcount⟩
  rw [Nat.mul_right_comm, Nat.cast_mul, Int.mul_right_comm]
  exact htol

end Sys2Proof.Machine
end

section
/-! PROOF. Errors (O14, O15, O31, O33, O34): what a response says of the command it answers, and the check that each error
comes of, in the order of 60_exceptions.md R165. -/

namespace Sys2Proof.Machine

/-! ### Responses (60_exceptions.md R160, R166) -/

/-- A response comes of a completed command, or of one of the command's errors raised from the state it began in. -/
theorem exec_responded {i : Instr} {s t : State} {r : Response} (h : exec i s = .next t) (hr : t.rsp = some r) :
    (∃ d u, Effect s i d u ∧ t = u.answer d ∧ r = ⟨0#8, d⟩) ∨
      ∃ e, Raises i s e ∧ t = s.raise e ∧ r = ⟨e.code, 0#64⟩ := by
  obtain ⟨-, rfl⟩ | ⟨-, ⟨d, u, he, rfl⟩ | ⟨e, he, rfl⟩ | ⟨-, -, -, rfl⟩⟩ := exec_ends h
  · cases hr
  · exact .inl ⟨d, u, he, rfl, (Option.some.inj hr).symm⟩
  · exact .inr ⟨e, he, rfl, (Option.some.inj hr).symm⟩
  · cases hr

/-- Settles O14: a status other than OK is that of a raised error. -/
theorem failedCommandChangesNothing : Obligations.FailedCommandChangesNothing := by
  intro i s t r h hr hstatus
  obtain ⟨d, u, -, -, rfl⟩ | ⟨e, -, rfl, rfl⟩ := exec_responded h hr
  · exact absurd rfl hstatus
  · exact ⟨rfl, s.raise_block e⟩

/-- Settles O15: a raised error is one of the command's list. -/
theorem answersCarryListedCodes : Obligations.AnswersCarryListedCodes := by
  intro i s t r _ h hr
  obtain ⟨d, u, -, -, rfl⟩ | ⟨e, ⟨hlisted, -⟩, -, rfl⟩ := exec_responded h hr
  · exact .inl rfl
  · exact .inr ⟨e, hlisted, rfl⟩

/-! ### Checks that pass (60_exceptions.md R165) -/

section
variable {s : State} {j : BitVec 8} {n : Nat}

/-- A body whose index check passes is the rest of the body. -/
theorem command_indexed {body : Unit → Act (Data × State)} (hj : j.toNat < n) :
    command s (requireIndex j n >>= body) = command s (body ()) := by
  rw [requireIndex_ok hj, act_bind_ok]

/-- A body whose index check passes and that has a clock to sample is the rest of the body. -/
theorem command_clocked {body : Time → Act (Data × State)} (hj : j.toNat < n) (hclock : s.env.clockOk = true) :
    command s (requireIndex j n >>= fun _ => sampleClock s >>= body) = command s (body s.env.nowMs) := by
  rw [command_indexed hj, sampleClock_ok hclock, act_bind_ok]

end

/-! ### Banks (60_exceptions.md R161) -/

/-- A body that makes the index check and then the bank check is answered with `NotInitializedError` when only the second
fails. -/
theorem command_unmappedPwm {s : State} {j : BitVec 8} {n : Nat} {body : Unit → Act (Data × State)}
    (hrun : s.block.halted = false) (hj : j.toNat < n) (hm : s.block.pwmMapped = false) :
    command s (requireIndex j n >>= fun _ => requirePwm s >>= body) = .next (s.raise .notInitialized) := by
  rw [command_indexed hj, command_running _ hrun, requirePwm_error hm, act_bind_error, conclude_raise]

/-- Every command that needs the PWM bank checks it right after its index. -/
theorem exec_unmappedPwm {i : Instr} {s : State} (hrun : s.block.halted = false) (hwf : i.WellFormed s.params)
    (hneeds : needsPwmBank i = true) (hm : s.block.pwmMapped = false) : exec i s = .next (s.raise .notInitialized) := by
  cases i with
  | hpwmSet | hpwmEnable | hpwmDisable => exact command_unmappedPwm hrun hwf hm
  | gpioInit | gpioCleanup | pinMode | digitalWrite | digitalRead | millis | timerSet | timerExpired | timerTick | spwmCfg
  | spwmPoll | hpwmInit | hpwmCleanup => cases hneeds

theorem routeChannel_unmapped {s : State} (c : Nat) (halt : s.params.pwmNeedsAlt = true)
    (hm : s.block.gpioMapped = false) : routeChannel s c = .error (.raise .notInitialized) := by
  rw [routeChannel, if_pos halt, requireGpio_error hm, act_bind_error]

/-- `HPWM_ENABLE` needs both banks where channels are routed, and either one missing gives the same answer
(43_hw_pwm.md R145). -/
theorem exec_hpwmEnable_unmappedGpio {s : State} {ch : BitVec 8} (hrun : s.block.halted = false)
    (hch : ch.toNat < s.params.nhpwm) (halt : s.params.pwmNeedsAlt = true) (hm : s.block.gpioMapped = false) :
    exec (.hpwmEnable ch) s = .next (s.raise .notInitialized) := by
  cases hpwm : s.block.pwmMapped with
  | false => exact exec_unmappedPwm hrun hch rfl hpwm
  | true =>
    change execHpwmEnable ch s = _
    rw [execHpwmEnable, command_indexed hch, command_running _ hrun, requirePwm_ok hpwm, act_bind_ok,
      routeChannel_unmapped _ halt hm, act_bind_error, conclude_raise]

/-- Every command that needs the GPIO bank checks it before its pin and configuration operands. -/
theorem exec_unmappedGpio {i : Instr} {s : State} (hrun : s.block.halted = false) (hwf : i.WellFormed s.params)
    (hclock : ClockServes i s) (hneeds : needsGpioBank s.params i = true) (hm : s.block.gpioMapped = false) :
    exec i s = .next (s.raise .notInitialized) := by
  cases i with
  | pinMode | digitalWrite | digitalRead => exact command_unmappedGpio hrun hm
  | spwmCfg | spwmPoll => exact (command_clocked hwf (hclock rfl)).trans (command_unmappedGpio hrun hm)
  | hpwmEnable => exact exec_hpwmEnable_unmappedGpio hrun hwf hneeds hm
  | gpioInit | gpioCleanup | millis | timerSet | timerExpired | timerTick | hpwmInit | hpwmCleanup | hpwmSet
  | hpwmDisable => cases hneeds

/-- Settles O31: one case for each bank. -/
theorem unmappedBankIsRejected : Obligations.UnmappedBankIsRejected := by
  rintro i s hrun hwf hclock (⟨hneeds, hm⟩ | ⟨hneeds, hm⟩)
  · exact rejectedWith_of_raise (exec_unmappedGpio hrun hwf hclock hneeds hm)
  · exact rejectedWith_of_raise (exec_unmappedPwm hrun hwf hneeds hm)

/-! ### Configurations (60_exceptions.md R168) -/

/-- `SPWM_CFG` with a valid index, clock, bank and pin comes to the check of its configuration (42_soft_pwm.md R123). -/
theorem exec_spwmCfg_checked {s : State} {ch pin : BitVec 8} (freq : BitVec 32) (duty : BitVec 17)
    (hrun : s.block.halted = false) (hch : ch.toNat < s.params.nspwm) (hclock : s.env.clockOk = true)
    (hm : s.block.gpioMapped = true) (hp : pin.toNat < s.params.npins) :
    exec (.spwmCfg ch pin freq duty) s = conclude s (do
      require (softConfigOk freq duty) .invalidConfiguration
      let old ← channelAt s ch
      let t ← digitalWriteTo s pin.toNat (decide ((schedule freq duty).onMs ≠ 0))
      return (0#64, setChannel t ch (startedChannel old pin (schedule freq duty) s.env.nowMs))) := by
  change execSpwmCfg ch pin freq duty s = _
  rw [execSpwmCfg, command_clocked hch hclock, command_running _ hrun, requireGpio_ok hm, act_bind_ok, requirePin_ok hp,
    act_bind_ok]

theorem exec_spwmCfg_badConfig {s : State} {ch pin : BitVec 8} {freq : BitVec 32} {duty : BitVec 17}
    (hrun : s.block.halted = false) (hch : ch.toNat < s.params.nspwm) (hclock : s.env.clockOk = true)
    (hm : s.block.gpioMapped = true) (hp : pin.toNat < s.params.npins) (hbad : softConfigOk freq duty = false) :
    exec (.spwmCfg ch pin freq duty) s = .next (s.raise .invalidConfiguration) := by
  rw [exec_spwmCfg_checked freq duty hrun hch hclock hm hp, require_error hbad, act_bind_error, conclude_raise]

theorem exec_spwmPoll_unconfigured {s : State} {ch : BitVec 8} {c : Channel} (hrun : s.block.halted = false)
    (hch : ch.toNat < s.params.nspwm) (hclock : s.env.clockOk = true) (hm : s.block.gpioMapped = true)
    (hc : s.block.spwm[ch.toNat]? = some c) (hcfg : c.cfg = false) :
    exec (.spwmPoll ch) s = .next (s.raise .invalidConfiguration) := by
  change execSpwmPoll ch s = _
  rw [execSpwmPoll, command_clocked hch hclock, command_running _ hrun, requireGpio_ok hm, act_bind_ok, channelAt_ok hc,
    act_bind_ok, require_error hcfg, act_bind_error, conclude_raise]

theorem selection_error {P : Params} {freq : BitVec 32} (h : select P freq.toNat = none) :
    selection P freq = .error (.raise .invalidConfiguration) := by
  rw [selection, h]

/-- Either of `HPWM_SET`'s two configuration checks gives the error: the operands' ranges, then the search for a divider. -/
theorem exec_hpwmSet_badConfig {s : State} {ch : BitVec 8} {freq : BitVec 32} {duty : BitVec 17}
    (hrun : s.block.halted = false) (hch : ch.toNat < s.params.nhpwm) (hm : s.block.pwmMapped = true)
    (hbad : (duty.toNat ≤ 65536 ∧ freq.toNat ≠ 0) → select s.params freq.toNat = none) :
    exec (.hpwmSet ch freq duty) s = .next (s.raise .invalidConfiguration) := by
  change execHpwmSet ch freq duty s = _
  rw [execHpwmSet, command_indexed hch, command_running _ hrun, requirePwm_ok hm, act_bind_ok]
  by_cases hrange : duty.toNat ≤ 65536 ∧ freq.toNat ≠ 0
  · rw [require_ok (decide_eq_true hrange), act_bind_ok, selection_error (hbad hrange), act_bind_error, conclude_raise]
  · rw [require_error (decide_eq_false hrange), act_bind_error, conclude_raise]

/-- Settles O33. -/
theorem badConfigurationIsRejected : Obligations.BadConfigurationIsRejected := by
  refine ⟨fun s ch pin freq duty hrun hch hclock hm hp hbad => ?_, fun s ch freq duty hrun hch hm hbad => ?_,
    fun s ch c hrun hch hclock hm hc hcfg => ?_⟩
  · have hconfig : softConfigOk freq duty = false := decide_eq_false (by omega)
    exact rejectedWith_of_raise (exec_spwmCfg_badConfig hrun hch hclock hm hp hconfig)
  · refine rejectedWith_of_raise (exec_hpwmSet_badConfig hrun hch hm fun ⟨hduty, hpos⟩ => ?_)
    exact (hbad.resolve_left (Nat.not_lt.mpr hduty)).resolve_left hpos
  · exact rejectedWith_of_raise (exec_spwmPoll_unconfigured hrun hch hclock hm hc hcfg)

/-! ### Pins that are no outputs (60_exceptions.md R167) -/

section
variable {s : State} {f : Word}

/-- `DigitalWrite` to a pin in any other function is rejected (41_gpio.md R107). -/
theorem digitalWriteTo_nonOutput {p : Nat} (level : Bool) (h : s.Inv) (hm : s.block.gpioMapped = true)
    (hf : s.block.fsel[p]? = some f) (hne : f ≠ s.params.fselOutput) :
    digitalWriteTo s p level = .error (.raise .invalidPinState) := by
  have hp := h.lt_npins_of_fsel hf
  obtain ⟨⟨hgpio, -⟩, -, hcodes, -⟩ := h
  rw [digitalWriteTo_eq level hgpio hm hp hf (hcodes _ (List.mem_of_getElem? hf)), if_neg hne]

theorem exec_digitalWrite_nonOutput {pin : BitVec 8} (level : Level) (h : s.Inv) (hrun : s.block.halted = false)
    (hm : s.block.gpioMapped = true) (hf : s.block.fsel[pin.toNat]? = some f) (hne : f ≠ s.params.fselOutput) :
    exec (.digitalWrite pin level) s = .next (s.raise .invalidPinState) := by
  change execDigitalWrite pin level s = _
  rw [execDigitalWrite, command_running _ hrun, requireGpio_ok hm, act_bind_ok, requirePin_ok (h.lt_npins_of_fsel hf),
    act_bind_ok, digitalWriteTo_nonOutput _ h hm hf hne, act_bind_error, conclude_raise]

theorem exec_spwmCfg_nonOutput {ch pin : BitVec 8} {freq : BitVec 32} {duty : BitVec 17} (h : s.Inv)
    (hrun : s.block.halted = false) (hch : ch.toNat < s.params.nspwm) (hclock : s.env.clockOk = true)
    (hm : s.block.gpioMapped = true) (hok : softConfigOk freq duty = true)
    (hf : s.block.fsel[pin.toNat]? = some f) (hne : f ≠ s.params.fselOutput) :
    exec (.spwmCfg ch pin freq duty) s = .next (s.raise .invalidPinState) := by
  have ⟨_, ⟨_, _, _, _, _, _, hspwm⟩, _⟩ := h
  have hold := channelAt_ok (List.getElem?_eq_getElem (hspwm.symm ▸ hch))
  rw [exec_spwmCfg_checked freq duty hrun hch hclock hm (h.lt_npins_of_fsel hf), require_ok hok, act_bind_ok, hold,
    act_bind_ok, digitalWriteTo_nonOutput _ h hm hf hne, act_bind_error, conclude_raise]

theorem exec_spwmPoll_nonOutput {ch : BitVec 8} {c : Channel} (h : s.Inv) (hrun : s.block.halted = false)
    (hclock : s.env.clockOk = true) (hm : s.block.gpioMapped = true) (hc : s.block.spwm[ch.toNat]? = some c)
    (hcfg : c.cfg = true) (hsteady : c.steady = false) (hreached : reached s.env.nowMs c.tmr.nextExpiry = true)
    (hf : s.block.fsel[c.pin.toNat]? = some f) (hne : f ≠ s.params.fselOutput) :
    exec (.spwmPoll ch) s = .next (s.raise .invalidPinState) := by
  rw [exec_spwmPoll h hrun hclock hm hc hcfg, hsteady, if_neg Bool.false_ne_true, if_pos hreached,
    digitalWriteTo_nonOutput _ h hm hf hne, act_bind_error, conclude_raise]

end

/-- No error that `DIGITAL_READ` can raise has code 4. -/
theorem digitalRead_error_code {pin : BitVec 8} {e : ErrorKind} (h : e ∈ mayRaise (.digitalRead pin)) :
    e.code ≠ 4#8 :=
  (by decide : ∀ e ∈ [ErrorKind.notInitialized, .invalidPin, .illegalCommand], e.code ≠ 4#8) e h

/-- Settles O34: the three commands that write a pin's level, and the errors of the one that reads it. -/
theorem nonOutputPinIsRejected : Obligations.NonOutputPinIsRejected := by
  refine ⟨fun s pin level f h hrun hm hf hne => ?_,
    fun s ch pin freq duty f h hrun hch hclock hm hduty hpos hmax hf hne => ?_,
    fun s ch c f h hrun hclock hm hc hcfg hon hoff hreached hf hne => ?_, fun s t pin r ht hr => ?_⟩
  · exact rejectedWith_of_raise (exec_digitalWrite_nonOutput level h hrun hm hf hne)
  · have hok : softConfigOk freq duty = true := decide_eq_true ⟨hduty, hpos, hmax⟩
    exact rejectedWith_of_raise (exec_spwmCfg_nonOutput h hrun hch hclock hm hok hf hne)
  · have hsteady := Channel.steady_eq_false.mpr ⟨hon, hoff⟩
    exact rejectedWith_of_raise (exec_spwmPoll_nonOutput h hrun hclock hm hc hcfg hsteady hreached hf hne)
  · obtain ⟨d, u, -, -, rfl⟩ | ⟨e, ⟨hlisted, -⟩, -, rfl⟩ := exec_responded ht hr
    · exact (by decide : (0#8 : BitVec 8) ≠ 4#8)
    · exact digitalRead_error_code hlisted

end Sys2Proof.Machine
end

section
/-! PROOF. The worked frames (O4): each is what the encoder writes for its command. -/

namespace Sys2Proof

/-- Decoding and encoding are inverse (O1, O2), so what a frame decodes to is settled by assembling the command's
fields, with no search of the opcode map. -/
theorem decode_eq_some_iff_encode_eq {F : Frame} {i : Instr} : decode F = some i ↔ encode i = F :=
  ⟨encodeOfDecode F i, fun h => h ▸ decodeOfEncode i⟩

/-- Settles O4: each frame of the worked table (30_encoding.md section 7) is the encoding of its command. -/
theorem workedFramesDecode : Obligations.WorkedFramesDecode := by
  simp only [Obligations.WorkedFramesDecode, decode_eq_some_iff_encode_eq]
  exact ⟨rfl, rfl, rfl, rfl, rfl, rfl, rfl, rfl⟩

end Sys2Proof
end
